-- ==== Sys2Proof/Word.lean ====
section
/-!
DEFINITION. Word.lean: the word types of the block.
Every host access and every command word is 32 bits (20_memory.md R60, 30_encoding.md R90); a plane
number is the value of a 4-bit field (R91).
-/

namespace Sys2Proof

/-- The 32-bit word of the host port, of a register, of a command and of a plane element. -/
abbrev Word := BitVec 32

/-- One byte of a plane word (20_memory.md R65). -/
abbrev Byte := BitVec 8

/-- A plane number, 0 to 15: the value of a 4-bit plane field (30_encoding.md R91). -/
abbrev PlaneNo := Fin 16

end Sys2Proof
end

