-- ==== Sys2Proof/Machine/Constants.lean ====
section
/-!
DEFINITION. Machine/Constants.lean: the fixed constants of the block (00_scope.md R12, R13): every value
is the source's literal. Register offsets and the address map are in Machine/Ops.lean.
-/

namespace Sys2Proof.Machine

/-- `K_EDGE`: the kernel size of the edge pipeline and its border band. -/
def kEdge : Nat := 3

/-- `K_CORNER`: the border and suppression window of the corner pipeline. -/
def kCorner : Nat := 5

/-- `LUMA_R`. -/
def lumaR : Nat := 77

/-- `LUMA_G`. -/
def lumaG : Nat := 150

/-- `LUMA_B`. -/
def lumaB : Nat := 28

/-- `GAUSS3_SHIFT`. -/
def gauss3Shift : Nat := 4

/-- `GAUSS5_SHIFT`. -/
def gauss5Shift : Nat := 8

/-- `DIR_T1`. -/
def dirT1 : Int := 106

/-- `DIR_T2`. -/
def dirT2 : Int := 618

/-- `MAG_MAX`. -/
def magMax : Nat := 255

/-- `HARRIS_K_NUM`, the numerator of `k = 2621/65536`; `HKCONST` reads it. -/
def harrisKNum : Nat := 2621

/-- The exponent of `HARRIS_K_DEN = 65536 = 2^16`. -/
def harrisKShift : Nat := 16

/-- `HARRIS_LOW`; `HLOW` reads it. -/
def harrisLow : Nat := 42

/-- The reset value of `MARGIN` (10_state.md R32). -/
def marginReset : Word := 5

end Sys2Proof.Machine
end

