-- ==== Sys2Proof/Config.lean ====
section
/-!
DEFINITION. Config.lean: the parameters that a build of the block fixes (00_scope.md R10, R11).
The spec leaves `WIDTH` and `HEIGHT` open, so a build is plain data that every statement quantifies over.
-/

namespace Sys2Proof

/-- The parameters fixed per build: the frame dimensions and the number of planes (R10, R11). -/
structure Build where
  /-- `WIDTH`, the number of columns of a frame. -/
  width : Nat
  /-- `HEIGHT`, the number of rows of a frame. -/
  height : Nat
  /-- `NPLANES`, the number of host-visible planes. -/
  nplanes : Nat
deriving DecidableEq, Repr

namespace Build

/-- The number of pixels of a frame, which is the number of element words of a plane (10_state.md R30). -/
def size (b : Build) : Nat := b.width * b.height

/-- A legal configuration: both dimensions at least 6, at most `2^22` pixels, 1 to 16 planes
(R10, R11). -/
def legal (b : Build) : Bool :=
  decide (6 ≤ b.width) && decide (6 ≤ b.height) && decide (b.width * b.height ≤ 2 ^ 22) &&
    decide (1 ≤ b.nplanes) && decide (b.nplanes ≤ 16)

/-- The build `State.reset` shows. DESIGN CHOICE (log entry 1): the spec gives the frame size no value;
20 by 20 with 16 planes is the build of the spec's programs P1 to P3 (95_test_vectors.md).
Statements hold for every legal build, never for this one alone. -/
def square20 : Build := { width := 20, height := 20, nplanes := 16 }

end Build

end Sys2Proof
end

