-- ==== Sys2Proof/Syntax.lean ====
section
/-!
DEFINITION. Syntax.lean: the commands of the block, one constructor per row of spec/opcode_table.json
(30_encoding.md R95). `d` is the destination plane `DST`; `a`, `b`, `c` are the source planes `SRC1`,
`SRC2`, `SRC3` (R93).
-/

namespace Sys2Proof

/-- A command, decoded (30_encoding.md R95). -/
inductive Instr where
  /-- CONV3: generic 3×3 convolution (R126). -/
  | conv3 (d a : PlaneNo)
  /-- CONV5: generic 5×5 convolution (R127). -/
  | conv5 (d a : PlaneNo)
  /-- TOGRAY: colour to luma (R140). -/
  | togray (d a : PlaneNo)
  /-- TORGB: luma to colour (R141). -/
  | torgb (d a : PlaneNo)
  /-- COPY: plane duplication (R142). -/
  | copy (d a : PlaneNo)
  /-- GAUSS3: 3×3 Gaussian smoothing (R150). -/
  | gauss3 (d a : PlaneNo)
  /-- GAUSS5: 5×5 Gaussian smoothing (R151). -/
  | gauss5 (d a : PlaneNo)
  /-- SOBEL: gradient magnitude and direction (R163). -/
  | sobel (d a : PlaneNo)
  /-- SOBELX: raw horizontal gradient (R164). -/
  | sobelx (d a : PlaneNo)
  /-- SOBELY: raw vertical gradient (R165). -/
  | sobely (d a : PlaneNo)
  /-- EDGE_NMS: edge non-max suppression (R180). -/
  | edgeNms (d a : PlaneNo)
  /-- THRESHOLD: single-threshold binarization (R183). -/
  | threshold (d a : PlaneNo)
  /-- BORDER_ZERO: border zeroing (R185). -/
  | borderZero (d a : PlaneNo)
  /-- PRODUCT: per-pixel gradient product (R201). -/
  | product (d a b : PlaneNo)
  /-- RESPONSE: Harris corner response (R205). -/
  | response (d a b c : PlaneNo)
  /-- GLOBAL_MAX: frame maximum of the scores; it has no destination plane (R210). -/
  | globalMax (a : PlaneNo)
  /-- DECIDE: classification against the frame maximum (R214). -/
  | classify (d a : PlaneNo)
  /-- CORNER_NMS: 5×5 corner non-max suppression (R218). -/
  | cornerNms (d a : PlaneNo)
  /-- CANNY: the edge pipeline as one command (R230). -/
  | canny (d a : PlaneNo)
  /-- HARRIS: the corner pipeline as one command (R234). -/
  | harris (d a : PlaneNo)
deriving DecidableEq, Repr

end Sys2Proof
end

