-- ==== Sys2Proof/WellFormed.lean ====
section
/-!
DEFINITION. WellFormed.lean: which commands a build can name (30_encoding.md R92, R94): every plane
field that the opcode uses names a plane below `NPLANES`.
-/

namespace Sys2Proof

/-- A plane field names a plane of the build (R92). -/
def PlaneNo.inRange (b : Build) (p : PlaneNo) : Bool := decide (p.val < b.nplanes)

/-- A command is well formed for a build if each plane field it uses is in range (R92, R94). -/
def Instr.wellFormed (b : Build) : Instr → Bool
  | .conv3 d a => PlaneNo.inRange b d && PlaneNo.inRange b a
  | .conv5 d a => PlaneNo.inRange b d && PlaneNo.inRange b a
  | .togray d a => PlaneNo.inRange b d && PlaneNo.inRange b a
  | .torgb d a => PlaneNo.inRange b d && PlaneNo.inRange b a
  | .copy d a => PlaneNo.inRange b d && PlaneNo.inRange b a
  | .gauss3 d a => PlaneNo.inRange b d && PlaneNo.inRange b a
  | .gauss5 d a => PlaneNo.inRange b d && PlaneNo.inRange b a
  | .sobel d a => PlaneNo.inRange b d && PlaneNo.inRange b a
  | .sobelx d a => PlaneNo.inRange b d && PlaneNo.inRange b a
  | .sobely d a => PlaneNo.inRange b d && PlaneNo.inRange b a
  | .edgeNms d a => PlaneNo.inRange b d && PlaneNo.inRange b a
  | .threshold d a => PlaneNo.inRange b d && PlaneNo.inRange b a
  | .borderZero d a => PlaneNo.inRange b d && PlaneNo.inRange b a
  | .product d a e => PlaneNo.inRange b d && PlaneNo.inRange b a && PlaneNo.inRange b e
  | .response d a e f =>
      PlaneNo.inRange b d && PlaneNo.inRange b a && PlaneNo.inRange b e && PlaneNo.inRange b f
  | .globalMax a => PlaneNo.inRange b a
  | .classify d a => PlaneNo.inRange b d && PlaneNo.inRange b a
  | .cornerNms d a => PlaneNo.inRange b d && PlaneNo.inRange b a
  | .canny d a => PlaneNo.inRange b d && PlaneNo.inRange b a
  | .harris d a => PlaneNo.inRange b d && PlaneNo.inRange b a

end Sys2Proof
end

