-- ==== Sys2Proof/Decode.lean ====
section
/-!
DEFINITION. Decode.lean: from a command word to a command or a named rejection, and back
(30_encoding.md R90 to R98). What a word alone decides stands here; the checks that need the state
(`ARG`, `NPLANES`, the plane tags, `MAXV`) are in Machine/Ops.lean.
-/

namespace Sys2Proof

/-- `v[hi:lo]`: the field of bits `hi` down to `lo`, as an unsigned integer (00_scope.md R15). -/
def bits (v : Word) (hi lo : Nat) : Nat := v.toNat / 2 ^ lo % 2 ^ (hi - lo + 1)

/-- Why a word is no command, in the order the checks are made (R98): its opcode is not in the map, or
a reserved or unused field is not 0. -/
inductive DecodeError where
  | illegalOpcode
  | reservedField
deriving DecidableEq, Repr

/-- The value of the 4-bit plane field whose lowest bit is `lo` (R91). -/
def planeField (w : Word) (lo : Nat) : PlaneNo := Fin.ofNat 16 (bits w (lo + 3) lo)

/-- Fields DST and SRC1 used; SRC2, SRC3 and RSV must be 0 (format CMD-DS, R92). -/
def formDS (w : Word) (mk : PlaneNo → PlaneNo → Instr) : Except DecodeError Instr :=
  if bits w 31 16 = 0 then .ok (mk (planeField w 8) (planeField w 12)) else .error .reservedField

/-- Fields DST, SRC1 and SRC2 used; SRC3 and RSV must be 0 (format CMD-DSS, R92). -/
def formDSS (w : Word) (mk : PlaneNo → PlaneNo → PlaneNo → Instr) : Except DecodeError Instr :=
  if bits w 31 20 = 0 then .ok (mk (planeField w 8) (planeField w 12) (planeField w 16))
  else .error .reservedField

/-- All four plane fields used; RSV must be 0 (format CMD-DSSS, R92). -/
def formDSSS (w : Word) (mk : PlaneNo → PlaneNo → PlaneNo → PlaneNo → Instr) :
    Except DecodeError Instr :=
  if bits w 31 24 = 0 then
    .ok (mk (planeField w 8) (planeField w 12) (planeField w 16) (planeField w 20))
  else .error .reservedField

/-- Only SRC1 used; DST, SRC2, SRC3 and RSV must be 0 (format CMD-S, R92). -/
def formS (w : Word) (mk : PlaneNo → Instr) : Except DecodeError Instr :=
  if bits w 31 16 = 0 ∧ bits w 11 8 = 0 then .ok (mk (planeField w 12)) else .error .reservedField

/-- The decoder on the bits of a word: total, and every opcode outside the map of R95 is illegal (R96),
`0x00` among them. -/
def decode (w : Word) : Except DecodeError Instr :=
  match bits w 7 0 with
  | 0x10 => formDS w .conv3
  | 0x11 => formDS w .conv5
  | 0x01 => formDS w .togray
  | 0x02 => formDS w .torgb
  | 0x08 => formDS w .copy
  | 0x12 => formDS w .gauss3
  | 0x13 => formDS w .gauss5
  | 0x20 => formDS w .sobel
  | 0x21 => formDS w .sobelx
  | 0x22 => formDS w .sobely
  | 0x30 => formDS w .edgeNms
  | 0x31 => formDS w .threshold
  | 0x32 => formDS w .borderZero
  | 0x40 => formDSS w .product
  | 0x41 => formDSSS w .response
  | 0x42 => formS w .globalMax
  | 0x43 => formDS w .classify
  | 0x44 => formDS w .cornerNms
  | 0x50 => formDS w .canny
  | 0x51 => formDS w .harris
  | _ => .error .illegalOpcode

/-- A command word from its opcode and its plane fields, RSV = 0 (R91). -/
def encodeFields (op : Nat) (d a b c : PlaneNo) : Word :=
  BitVec.ofNat 32 (op + 2 ^ 8 * d.val + 2 ^ 12 * a.val + 2 ^ 16 * b.val + 2 ^ 20 * c.val)

/-- The opcode `OP` of a command (R95). -/
def Instr.opcode : Instr → Nat
  | .conv3 _ _ => 0x10
  | .conv5 _ _ => 0x11
  | .togray _ _ => 0x01
  | .torgb _ _ => 0x02
  | .copy _ _ => 0x08
  | .gauss3 _ _ => 0x12
  | .gauss5 _ _ => 0x13
  | .sobel _ _ => 0x20
  | .sobelx _ _ => 0x21
  | .sobely _ _ => 0x22
  | .edgeNms _ _ => 0x30
  | .threshold _ _ => 0x31
  | .borderZero _ _ => 0x32
  | .product _ _ _ => 0x40
  | .response _ _ _ _ => 0x41
  | .globalMax _ => 0x42
  | .classify _ _ => 0x43
  | .cornerNms _ _ => 0x44
  | .canny _ _ => 0x50
  | .harris _ _ => 0x51

/-- The word of a command: its opcode, its plane fields, and 0 in every field it does not use
(R91, R92). -/
def encode (i : Instr) : Word :=
  match i with
  | .conv3 d a => encodeFields i.opcode d a 0 0
  | .conv5 d a => encodeFields i.opcode d a 0 0
  | .togray d a => encodeFields i.opcode d a 0 0
  | .torgb d a => encodeFields i.opcode d a 0 0
  | .copy d a => encodeFields i.opcode d a 0 0
  | .gauss3 d a => encodeFields i.opcode d a 0 0
  | .gauss5 d a => encodeFields i.opcode d a 0 0
  | .sobel d a => encodeFields i.opcode d a 0 0
  | .sobelx d a => encodeFields i.opcode d a 0 0
  | .sobely d a => encodeFields i.opcode d a 0 0
  | .edgeNms d a => encodeFields i.opcode d a 0 0
  | .threshold d a => encodeFields i.opcode d a 0 0
  | .borderZero d a => encodeFields i.opcode d a 0 0
  | .product d a b => encodeFields i.opcode d a b 0
  | .response d a b c => encodeFields i.opcode d a b c
  | .globalMax a => encodeFields i.opcode 0 a 0 0
  | .classify d a => encodeFields i.opcode d a 0 0
  | .cornerNms d a => encodeFields i.opcode d a 0 0
  | .canny d a => encodeFields i.opcode d a 0 0
  | .harris d a => encodeFields i.opcode d a 0 0

/-- One row of spec/opcode_table.json: a word is of the row's command if and only if
`word & mask = match` (R94). -/
structure OpRow where
  mnemonic : String
  pattern : Word
  mask : Word
deriving DecidableEq, Repr

/-- spec/opcode_table.json as a table, in the order of R95. -/
def opcodeTable : List OpRow :=
  [⟨"CONV3", 0x00000010, 0xFFFF00FF⟩, ⟨"CONV5", 0x00000011, 0xFFFF00FF⟩,
   ⟨"TOGRAY", 0x00000001, 0xFFFF00FF⟩, ⟨"TORGB", 0x00000002, 0xFFFF00FF⟩,
   ⟨"COPY", 0x00000008, 0xFFFF00FF⟩] ++
  [⟨"GAUSS3", 0x00000012, 0xFFFF00FF⟩, ⟨"GAUSS5", 0x00000013, 0xFFFF00FF⟩,
   ⟨"SOBEL", 0x00000020, 0xFFFF00FF⟩, ⟨"SOBELX", 0x00000021, 0xFFFF00FF⟩,
   ⟨"SOBELY", 0x00000022, 0xFFFF00FF⟩] ++
  [⟨"EDGE_NMS", 0x00000030, 0xFFFF00FF⟩, ⟨"THRESHOLD", 0x00000031, 0xFFFF00FF⟩,
   ⟨"BORDER_ZERO", 0x00000032, 0xFFFF00FF⟩, ⟨"PRODUCT", 0x00000040, 0xFFF000FF⟩,
   ⟨"RESPONSE", 0x00000041, 0xFF0000FF⟩] ++
  [⟨"GLOBAL_MAX", 0x00000042, 0xFFFF0FFF⟩, ⟨"DECIDE", 0x00000043, 0xFFFF00FF⟩,
   ⟨"CORNER_NMS", 0x00000044, 0xFFFF00FF⟩, ⟨"CANNY", 0x00000050, 0xFFFF00FF⟩,
   ⟨"HARRIS", 0x00000051, 0xFFFF00FF⟩]

/-- The mnemonic of a command, as spec/opcode_table.json spells it. -/
def Instr.mnemonic : Instr → String
  | .conv3 _ _ => "CONV3"
  | .conv5 _ _ => "CONV5"
  | .togray _ _ => "TOGRAY"
  | .torgb _ _ => "TORGB"
  | .copy _ _ => "COPY"
  | .gauss3 _ _ => "GAUSS3"
  | .gauss5 _ _ => "GAUSS5"
  | .sobel _ _ => "SOBEL"
  | .sobelx _ _ => "SOBELX"
  | .sobely _ _ => "SOBELY"
  | .edgeNms _ _ => "EDGE_NMS"
  | .threshold _ _ => "THRESHOLD"
  | .borderZero _ _ => "BORDER_ZERO"
  | .product _ _ _ => "PRODUCT"
  | .response _ _ _ _ => "RESPONSE"
  | .globalMax _ => "GLOBAL_MAX"
  | .classify _ _ => "DECIDE"
  | .cornerNms _ _ => "CORNER_NMS"
  | .canny _ _ => "CANNY"
  | .harris _ _ => "HARRIS"

/-- The command word that the `nbits` low bits of `w` make, every bit above them 0. Every command is one
32-bit word (R90), so no other operand word follows. -/
def tableWord (nbits w : Nat) : Word := BitVec.ofNat 32 (w % 2 ^ nbits)

/-- What the decoder reads from an opcode-table word. -/
def decodeTableWord (nbits w : Nat) : Option Instr :=
  match decode (tableWord nbits w) with
  | .ok i => some i
  | .error _ => none

end Sys2Proof
end

