-- ==== Sys2Proof/Machine/Numeric.lean ====
section
/-!
DEFINITION. Machine/Numeric.lean: the arithmetic primitives of the spec's pseudocode (00_scope.md R15,
R16): exact integers, narrowed only where a rule says so.
-/

namespace Sys2Proof.Machine

/-- `asr(v, n) = floor(v / 2^n)` (R16). `Int` division by a positive number rounds toward minus
infinity. -/
def asr (v : Int) (n : Nat) : Int := v / 2 ^ n

/-- `tdiv(a, b)`: the quotient truncated toward zero (R16). -/
def tdiv (a b : Int) : Int := a.tdiv b

/-- `trunc_N(v) = v mod 2^N`, in `[0, 2^N)` (R15). -/
def trunc (n : Nat) (v : Int) : Int := v % 2 ^ n

/-- `wrap_N(v)`: `trunc_N(v)` read as an N-bit two's-complement integer (R15). -/
def wrap (n : Nat) (v : Int) : Int :=
  if trunc n v < 2 ^ (n - 1) then trunc n v else trunc n v - 2 ^ n

/-- The search of `isqrt`: `r` is a root so far, and the bits `k-1` down to 0 are still to be tried. -/
def isqrtBits (n : Nat) : Nat → Nat → Nat
  | 0, r => r
  | k + 1, r => isqrtBits n k (if (r + 2 ^ k) * (r + 2 ^ k) ≤ n then r + 2 ^ k else r)

/-- `isqrt(n)`: the largest `m` with `m·m ≤ n` (R16). A root of `n` has at most half as many bits as
`n`, rounded up. -/
def isqrt (n : Nat) : Nat := isqrtBits n (n.log2 / 2 + 1) 0

/-- `Σ_{i<n} f(i)`. -/
def sumTo : Nat → (Nat → Int) → Int
  | 0, _ => 0
  | n + 1, f => sumTo n f + f n

/-- The largest of `f(0), …, f(n-1)`, and 0 if there is none. -/
def maxTo : Nat → (Nat → Nat) → Nat
  | 0, _ => 0
  | n + 1, f => max (maxTo n f) (f n)

end Sys2Proof.Machine
end

