-- ==== Sys2Proof/Machine/State.lean ====
section
/-!
DEFINITION. Machine/State.lean: the state of the block as plain data, why a step can stop, and the state
after hard reset (10_state.md R20 to R40).
-/

namespace Sys2Proof.Machine

/-- The type tag of a plane (30_encoding.md R108). Codes 8 to 15 are never stored (R31), so they have no
constructor. -/
inductive Tag where
  | none | rgb | u8 | dir | s16 | u16 | s32 | wpix
deriving DecidableEq, Repr

/-- The value of `STATUS.ERRCODE` (60_exceptions.md R252). Codes 7 to 15 are never recorded, so they have
no constructor. -/
inductive ErrCode where
  | none | overrun | illegalOpcode | reservedField | planeRange | typeMismatch | noMax
deriving DecidableEq, Repr

/-- The plane memory: the bytes of the plane words that have been written, each at its host byte address,
addresses strictly rising. A byte that is not listed is unwritten and has no value (R30). -/
abbrev Memory := List Host.Cell

/-- The canonical form of the plane memory: addresses strictly rising. An unlisted address reads as no
value, so no entry can equal what it reads as. -/
abbrev Memory.wf (m : Memory) : Prop := m.Pairwise fun c e => c.1 < e.1

/-- The copy of a source plane taken when a command is accepted: its tag and all its words
(30_encoding.md R113). -/
structure Snapshot where
  tag : Tag
  words : List Word
deriving DecidableEq, Repr

/-- The in-flight record: everything the result of an accepted command is a function of (R37). The accepted
command word is held decoded; `InFlight.word` gives it back. -/
structure InFlight where
  instr : Instr
  arg : Word
  margin : Word
  kcoef : Vector (BitVec 16) 25
  maxr : Word
  maxv : Bool
  sources : List Snapshot
deriving DecidableEq, Repr

/-- What happens next outside the block's own control: the accesses of the host in the order it issues
them (20_memory.md R69), the engine's turn to complete, and hard reset (60_exceptions.md R260). -/
inductive Event where
  /-- `MemRead(addr, size)` (R60). -/
  | read (addr : Word) (size : Nat)
  /-- `MemWrite(addr, size, v)` (R60). -/
  | write (addr : Word) (size : Nat) (v : Word)
  /-- The host polls `STATUS` until `BUSY = 0` (`WAIT`, 30_encoding.md R116). -/
  | wait
  /-- The engine takes its completion step if a command is in flight (70_reset_and_hazards.md R286). -/
  | engine
  /-- The external reset input (70_reset_and_hazards.md R280). -/
  | hardReset
deriving DecidableEq, Repr

/-- The state of the block. `STATUS.BUSY` is not stored: it is 1 exactly while the in-flight record exists
(R24, R37). `build`, `agenda` and `rdata` are the model's own fields (log entries 1, 2, 3). -/
structure State where
  /-- The build the state belongs to; no step changes it (R10, R11, R29). -/
  build : Build
  /-- `ARG` (R22). -/
  arg : Word
  /-- `STATUS.DONE` (R25). -/
  done : Bool
  /-- `STATUS.ERR` (R26). -/
  err : Bool
  /-- `STATUS.MAXV` (R27). -/
  maxv : Bool
  /-- `STATUS.ERRCODE` (R26). -/
  errcode : ErrCode
  /-- `MARGIN` (R32). -/
  margin : Word
  /-- `MAXR` (R33). -/
  maxr : Word
  /-- `ERRINFO` (R34). -/
  errinfo : Word
  /-- `KCOEF[0..24]`, the stored 16 bits of each coefficient (R35). -/
  kcoef : Vector (BitVec 16) 25
  /-- `PL[p].tag`, which `PTYPE[p]` shows (R30, R31). -/
  tags : Vector Tag 16
  /-- `PL[p].word[i]` of every plane, as bytes at host addresses (R30, R62, R65). -/
  mem : Memory
  /-- The in-flight record; `none` when no command is in flight (R37). -/
  inflight : Option InFlight
  /-- What the host, the engine's timing and the reset input do from here on, first event first. -/
  agenda : List Event
  /-- The data the host port returned in the last step, if that step was a read. -/
  rdata : Option Word
deriving DecidableEq, Repr

/-- Why the model stops with a fault: each case is one the spec calls a fault in the model. -/
inductive Fault where
  /-- Raised by a host read of a plane word that is unwritten (R30, 93 I4). Safe: the block returns some
  value the spec does not give. -/
  | unwrittenRead
  /-- Raised by the acceptance of a command whose source snapshot includes an unwritten word
  (R30, 93 I4). Safe: the block computes from some value the spec does not give. -/
  | unwrittenSource
deriving DecidableEq, Repr

/-- Why the model refuses a step: each case but the first is one the spec puts outside the host protocol or
outside the legal builds. -/
inductive Refusal where
  /-- Raised by `exec` for a command without a meaning; no arm raises it. Safe. -/
  | notModelled (mnemonic : String)
  /-- Raised by `step` in a state of an illegal configuration (R10, 93 I3). Safe: no such block exists. -/
  | illegalBuild
  /-- Raised by a host access of a size other than 4 bytes (R66, 93 I5). Safe. -/
  | accessSize
  /-- Raised by a host access with `addr[1:0] ≠ 0` (R66, 93 I5). Safe. -/
  | misaligned
  /-- Raised by a host read or write of a plane word while `STATUS.BUSY = 1` (R284, 93 I6). Safe. -/
  | planeAccessWhileBusy
  /-- Raised by a host write of a `PTYPE` register while `STATUS.BUSY = 1` (R284, 93 I6). Safe. -/
  | ptypeWriteWhileBusy
deriving DecidableEq, Repr

/-- The state after hard reset of a build (R40, R280): idle, no error, no maximum, `MARGIN` 5, every tag
NONE, every plane word unwritten. -/
def State.resetOf (b : Build) : State where
  build := b
  arg := 0
  done := false
  err := false
  maxv := false
  errcode := .none
  margin := 5
  maxr := 0
  errinfo := 0
  kcoef := Vector.replicate 25 0
  tags := Vector.replicate 16 .none
  mem := []
  inflight := none
  agenda := []
  rdata := none

/-- The machine right after reset, for the build of log entry 1. -/
def State.reset : State := State.resetOf Build.square20

end Sys2Proof.Machine
end

