-- ==== Sys2Proof/Machine/Operands.lean ====
section
/-!
DEFINITION. Machine/Operands.lean: every operand form: element words of each type (30_encoding.md R99 to
R109), the tag codes (R108), the planes and types each command reads and writes (R92, R95, R110, R111),
and how `ARG`, `MARGIN`, `KCOEF` and `MAXR` are read (R93, R112).
-/

namespace Sys2Proof.Machine

/-! ### Element types (R100 to R107) -/

/-- RGB: a colour pixel (R100). -/
structure Rgb where
  r : Byte
  g : Byte
  b : Byte
deriving DecidableEq, Repr

/-- The four direction buckets of a directed pixel (R102). -/
inductive Direction where
  | deg0 | deg45 | deg90 | deg135
deriving DecidableEq, Repr

/-- DIR: a directed pixel (R102). -/
structure DirPixel where
  mag : Byte
  dir : Direction
deriving DecidableEq, Repr

/-- The type of a weighted pixel (R106); `rsv3` is the reserved code 3. -/
inductive PixelKind where
  | flat | edge | corner | rsv3
deriving DecidableEq, Repr

/-- WPIX: a weighted pixel (R106). -/
structure WPixel where
  value : BitVec 16
  kind : PixelKind
deriving DecidableEq, Repr

/-! ### Codes of the enumerations -/

/-- The direction of a 2-bit code (R102). -/
def Direction.ofCode (c : BitVec 2) : Direction :=
  if c = 0 then .deg0 else if c = 1 then .deg45 else if c = 2 then .deg90 else .deg135

/-- The 2-bit code of a direction (R102). -/
def Direction.code : Direction → BitVec 2
  | .deg0 => 0
  | .deg45 => 1
  | .deg90 => 2
  | .deg135 => 3

/-- The pixel type of a 2-bit code (R106). -/
def PixelKind.ofCode (c : BitVec 2) : PixelKind :=
  if c = 0 then .flat else if c = 1 then .edge else if c = 2 then .corner else .rsv3

/-- The 2-bit code of a pixel type (R106). -/
def PixelKind.code : PixelKind → BitVec 2
  | .flat => 0
  | .edge => 1
  | .corner => 2
  | .rsv3 => 3

/-- The code of a plane tag (R108). -/
def Tag.code : Tag → Nat
  | .none => 0
  | .rgb => 1
  | .u8 => 2
  | .dir => 3
  | .s16 => 4
  | .u16 => 5
  | .s32 => 6
  | .wpix => 7

/-- The tag a write of the code `c` stores: codes 8 to 15 store NONE (10_state.md R31). -/
def Tag.ofCode (c : Nat) : Tag :=
  match c with
  | 1 => .rgb
  | 2 => .u8
  | 3 => .dir
  | 4 => .s16
  | 5 => .u16
  | 6 => .s32
  | 7 => .wpix
  | _ => .none

/-! ### `decode_T` and `encode_T` (R100 to R106)

A U8 element is a `Byte`, an S16 or U16 element the 16 bits of its field, an S32 element the whole word;
the rules read them with `toNat` or `toInt`. -/

/-- `decode_RGB` (R100). -/
def decodeRgb (w : Word) : Rgb :=
  { r := w.extractLsb' 0 8, g := w.extractLsb' 8 8, b := w.extractLsb' 16 8 }

/-- `encode_RGB(r, g, b) = {0x00, b, g, r}` (R100). -/
def encodeRgb (e : Rgb) : Word := 0#8 ++ e.b ++ e.g ++ e.r

/-- `decode_U8` (R101). -/
def decodeU8 (w : Word) : Byte := w.extractLsb' 0 8

/-- `encode_U8` (R101). -/
def encodeU8 (v : Byte) : Word := v.setWidth 32

/-- `decode_DIR` (R102). -/
def decodeDir (w : Word) : DirPixel :=
  { mag := w.extractLsb' 0 8, dir := .ofCode (w.extractLsb' 8 2) }

/-- `encode_DIR` (R102). -/
def encodeDir (e : DirPixel) : Word := 0#22 ++ e.dir.code ++ e.mag

/-- `decode_S16` (R103). -/
def decodeS16 (w : Word) : BitVec 16 := w.extractLsb' 0 16

/-- `encode_S16`: the sign extension of the 16 bits (R103). -/
def encodeS16 (v : BitVec 16) : Word := v.signExtend 32

/-- `decode_U16` (R104). -/
def decodeU16 (w : Word) : BitVec 16 := w.extractLsb' 0 16

/-- `encode_U16` (R104). -/
def encodeU16 (v : BitVec 16) : Word := v.setWidth 32

/-- `decode_S32`: the whole word (R105). -/
def decodeS32 (w : Word) : Word := w

/-- `encode_S32` (R105). -/
def encodeS32 (v : Word) : Word := v

/-- `decode_WPIX` (R106). -/
def decodeWPix (w : Word) : WPixel :=
  { value := w.extractLsb' 0 16, kind := .ofCode (w.extractLsb' 16 2) }

/-- `encode_WPIX` (R106). -/
def encodeWPix (e : WPixel) : Word := 0#14 ++ e.kind.code ++ e.value

/-! ### Zero elements (R109) -/

/-- The zero element of RGB. -/
def zeroRgb : Rgb := ⟨0, 0, 0⟩

/-- The zero element of DIR: `(0, 0°)`. -/
def zeroDir : DirPixel := ⟨0, .deg0⟩

/-- The zero element of WPIX: `(0, flat)`. -/
def zeroWPix : WPixel := ⟨0, .flat⟩

/-! ### The planes a command uses (R92, R95) -/

/-- What a command asks of the tag of a source plane (R110): one type, or for COPY any but NONE. -/
inductive TagRule where
  | exactly (t : Tag)
  | anyButNone
deriving DecidableEq, Repr

/-- `tag_ok` for one source (R98). -/
def TagRule.ok : TagRule → Tag → Bool
  | .exactly t, u => decide (u = t)
  | .anyButNone, u => decide (u ≠ .none)

end Sys2Proof.Machine

namespace Sys2Proof

open Sys2Proof.Machine

/-- The destination plane, if the command has one (R95). -/
def Instr.dst? : Instr → Option PlaneNo
  | .conv3 d _ => some d
  | .conv5 d _ => some d
  | .togray d _ => some d
  | .torgb d _ => some d
  | .copy d _ => some d
  | .gauss3 d _ => some d
  | .gauss5 d _ => some d
  | .sobel d _ => some d
  | .sobelx d _ => some d
  | .sobely d _ => some d
  | .edgeNms d _ => some d
  | .threshold d _ => some d
  | .borderZero d _ => some d
  | .product d _ _ => some d
  | .response d _ _ _ => some d
  | .globalMax _ => none
  | .classify d _ => some d
  | .cornerNms d _ => some d
  | .canny d _ => some d
  | .harris d _ => some d

/-- The source planes in the order SRC1, SRC2, SRC3, each with the type the command reads (R95). -/
def Instr.sources : Instr → List (PlaneNo × TagRule)
  | .conv3 _ a => [(a, .exactly .u8)]
  | .conv5 _ a => [(a, .exactly .u8)]
  | .togray _ a => [(a, .exactly .rgb)]
  | .torgb _ a => [(a, .exactly .u8)]
  | .copy _ a => [(a, .anyButNone)]
  | .gauss3 _ a => [(a, .exactly .u8)]
  | .gauss5 _ a => [(a, .exactly .u8)]
  | .sobel _ a => [(a, .exactly .u8)]
  | .sobelx _ a => [(a, .exactly .u8)]
  | .sobely _ a => [(a, .exactly .u8)]
  | .edgeNms _ a => [(a, .exactly .dir)]
  | .threshold _ a => [(a, .exactly .u8)]
  | .borderZero _ a => [(a, .exactly .u8)]
  | .product _ a b => [(a, .exactly .s16), (b, .exactly .s16)]
  | .response _ a b c => [(a, .exactly .u16), (b, .exactly .u16), (c, .exactly .u16)]
  | .globalMax a => [(a, .exactly .s32)]
  | .classify _ a => [(a, .exactly .s32)]
  | .cornerNms _ a => [(a, .exactly .wpix)]
  | .canny _ a => [(a, .exactly .rgb)]
  | .harris _ a => [(a, .exactly .rgb)]

/-- Every plane field the command uses, DST first (R92). -/
def Instr.planes (i : Instr) : List PlaneNo := i.dst?.toList ++ i.sources.map Prod.fst

/-- The check of `ARG` at decode: CONV3 and CONV5 require `ARG[31:5] = 0` (R112). -/
def Instr.argOk (i : Instr) (arg : Word) : Bool :=
  match i with
  | .conv3 _ _ => decide (bits arg 31 5 = 0)
  | .conv5 _ _ => decide (bits arg 31 5 = 0)
  | _ => true

/-- DECIDE needs a computed maximum (R98). -/
def Instr.needsMax (i : Instr) : Bool :=
  match i with
  | .classify _ _ => true
  | _ => false

/-- The commands that read `ARG` (R95 column "reads", R112); the assembler allows `#imm` for these alone
(R115). -/
def Instr.readsArg (i : Instr) : Bool :=
  match i with
  | .conv3 _ _ => true
  | .conv5 _ _ => true
  | .threshold _ _ => true
  | .classify _ _ => true
  | .canny _ _ => true
  | .harris _ _ => true
  | _ => false

end Sys2Proof

namespace Sys2Proof.Machine

/-! ### What a completing command reads from its record (R93, R112) -/

/-- The accepted command word (R37). -/
def InFlight.word (r : InFlight) : Word := encode r.instr

/-- The words of the snapshot of source `k` (0 for SRC1), empty if there is no such source. -/
def InFlight.srcWords (r : InFlight) (k : Nat) : List Word :=
  match r.sources[k]? with
  | some f => f.words
  | none => []

/-- The tag of the snapshot of source `k`. -/
def InFlight.srcTag (r : InFlight) (k : Nat) : Tag :=
  match r.sources[k]? with
  | some f => f.tag
  | none => .none

/-- `thr = wrap_32(ARG)` of THRESHOLD and CANNY, `thresUp = wrap_32(ARG)` of DECIDE and HARRIS (R112). -/
def InFlight.argInt (r : InFlight) : Int := r.arg.toInt

/-- `shift = ARG[4:0]` of CONV3 and CONV5 (R112). -/
def InFlight.shift (r : InFlight) : Nat := bits r.arg 4 0

/-- `MARGIN` as an unsigned integer (R93). -/
def InFlight.marginNat (r : InFlight) : Nat := r.margin.toNat

/-- `MAXR` as a signed integer (R93). -/
def InFlight.maxInt (r : InFlight) : Int := r.maxr.toInt

/-- `kernel[i][j] = sext_16(KCOEF[k·i + j])` of a `k`×`k` kernel (10_state.md R35). -/
def InFlight.kernel (r : InFlight) (k i j : Nat) : Int :=
  match r.kcoef[k * i + j]? with
  | some c => c.toInt
  | none => 0

end Sys2Proof.Machine
end

