-- ==== Sys2Proof/Machine/Flags.lean ====
section
/-!
DEFINITION. Machine/Flags.lean: the fields of `STATUS` and the one word that shows them (10_state.md R23 to
R27; the codes of 60_exceptions.md R252).
-/

namespace Sys2Proof.Machine

/-- `STATUS.BUSY`: 1 exactly while a command is in flight (R24, R37). -/
def State.busy (s : State) : Bool := s.inflight.isSome

/-- The number of an error code (R252). -/
def ErrCode.code : ErrCode → Nat
  | .none => 0
  | .overrun => 1
  | .illegalOpcode => 2
  | .reservedField => 3
  | .planeRange => 4
  | .typeMismatch => 5
  | .noMax => 6

/-- A flag bit as a number. -/
def flag (b : Bool) : Nat := if b then 1 else 0

/-- The word a read of `STATUS` returns: bit 0 BUSY, bit 1 DONE, bit 2 ERR, bit 3 MAXV, bits 11:8 ERRCODE,
every other bit 0 (R23). -/
def State.statusWord (s : State) : Word :=
  BitVec.ofNat 32
    (flag s.busy + 2 * flag s.done + 4 * flag s.err + 8 * flag s.maxv + 2 ^ 8 * s.errcode.code)

end Sys2Proof.Machine

namespace Sys2Proof

/-- The error a rejected word raises (R98, R252). -/
def DecodeError.errCode : DecodeError → Machine.ErrCode
  | .illegalOpcode => .illegalOpcode
  | .reservedField => .reservedField

end Sys2Proof
end

