-- ==== Sys2Proof/Machine/Ops.lean ====
section
/-!
DEFINITION. Machine/Ops.lean: the shared operations: the plane memory, the registers and the address map of
the host port (20_memory.md), the error entry (60_exceptions.md R253) and the way out of it (the resets,
70_reset_and_hazards.md R280, R281), and the acceptance and completion of a command (60_exceptions.md
R250, 70_reset_and_hazards.md R286).
-/

namespace Sys2Proof.Machine

/-! ### The plane memory: bytes, words, whole planes -/

/-- The byte at an address; `none` if it is unwritten. -/
def Memory.read : Memory → Nat → Option Byte
  | [], _ => none
  | c :: m, a => if c.1 = a then some c.2 else Memory.read m a

/-- The memory with the byte at an address written. -/
def Memory.write : Memory → Nat → Byte → Memory
  | [], a, v => [(a, v)]
  | c :: m, a, v =>
    if a < c.1 then (a, v) :: c :: m
    else if a = c.1 then (a, v) :: m
    else c :: Memory.write m a v

/-- The bytes of the address range `[base, base + n)` become unwritten. -/
def Memory.erase (m : Memory) (base n : Nat) : Memory :=
  m.filter fun c => decide (c.1 < base) || decide (base + n ≤ c.1)

/-- Byte `k` of a word is bits `8k+7 : 8k` (R65). -/
def wordByte (w : Word) (k : Nat) : Byte := w.extractLsb' (8 * k) 8

/-- The word of four bytes, byte 0 lowest (R65). -/
def wordOfBytes (b0 b1 b2 b3 : Byte) : Word := b3 ++ b2 ++ b1 ++ b0

/-- The word at a byte address; `none` if a byte of it is unwritten. -/
def Memory.readWord (m : Memory) (a : Nat) : Option Word :=
  match m.read a, m.read (a + 1), m.read (a + 2), m.read (a + 3) with
  | some b0, some b1, some b2, some b3 => some (wordOfBytes b0 b1 b2 b3)
  | _, _, _, _ => none

/-- The memory with the word at a byte address written (R65). -/
def Memory.writeWord (m : Memory) (a : Nat) (w : Word) : Memory :=
  (((m.write a (wordByte w 0)).write (a + 1) (wordByte w 1)).write (a + 2) (wordByte w 2)).write (a + 3)
    (wordByte w 3)

/-- `n` consecutive words from a byte address; `none` if any byte of them is unwritten. -/
def Memory.readWords (m : Memory) (a : Nat) : Nat → Option (List Word)
  | 0 => some []
  | n + 1 =>
    match m.readWord a, m.readWords (a + 4) n with
    | some w, some ws => some (w :: ws)
    | _, _ => none

/-- The cells of the address range `[base, base + n)`. -/
def Memory.slice (m : Memory) (base n : Nat) : Memory :=
  m.filter fun c => decide (base ≤ c.1) && decide (c.1 < base + n)

/-- The memory cells of consecutive words from a byte address. -/
def wordCells : Nat → List Word → Memory
  | _, [] => []
  | a, w :: ws =>
    (a, wordByte w 0) :: (a + 1, wordByte w 1) :: (a + 2, wordByte w 2) :: (a + 3, wordByte w 3) ::
      wordCells (a + 4) ws

/-- The memory with consecutive words from a byte address written, all at once (R114). -/
def Memory.writeWords (m : Memory) (a : Nat) (ws : List Word) : Memory :=
  m.filter (fun c => decide (c.1 < a)) ++ wordCells a ws ++
    m.filter (fun c => decide (a + 4 * ws.length ≤ c.1))

/-! ### Planes -/

/-- The byte address of the first word of plane `p` (R62). -/
def planeBase (p : PlaneNo) : Nat := 0x10000000 + p.val * 0x01000000

/-- The byte address of `PL[p].word[i]` (R62). -/
def planeAddr (p : PlaneNo) (i : Nat) : Nat := planeBase p + 4 * i

/-- `PL[p].word[i]`; `none` if it is unwritten (R30). -/
def State.planeWord (s : State) (p : PlaneNo) (i : Nat) : Option Word := s.mem.readWord (planeAddr p i)

/-- All words of plane `p`; `none` if one of them is unwritten. -/
def State.planeWords (s : State) (p : PlaneNo) : Option (List Word) :=
  (s.mem.slice (planeBase p) (4 * s.build.size)).readWords (planeBase p) s.build.size

/-- `PL[p].tag` (R30). -/
def State.tag (s : State) (p : PlaneNo) : Tag := s.tags[p]

/-- `PL[p].tag <- t`. -/
def State.setTag (s : State) (p : PlaneNo) (t : Tag) : State := { s with tags := s.tags.set p.val t p.isLt }

/-! ### The control window (10_state.md) -/

/-- The control registers. -/
inductive Reg where
  | cmd | arg | status | ctrl | width | height | margin | maxr | errinfo | hkconst | hlow | nplanes
  | kcoef (i : Fin 25)
  | ptype (p : PlaneNo)
deriving DecidableEq, Repr

/-- The offset of a register in the control window (10_state.md section 2). -/
def Reg.offset : Reg → Nat
  | .cmd => 0x000
  | .arg => 0x004
  | .status => 0x008
  | .ctrl => 0x00C
  | .width => 0x010
  | .height => 0x014
  | .margin => 0x018
  | .maxr => 0x01C
  | .errinfo => 0x020
  | .hkconst => 0x024
  | .hlow => 0x028
  | .nplanes => 0x02C
  | .kcoef i => 0x100 + 4 * i.val
  | .ptype p => 0x200 + 4 * p.val

/-- The registers, in the order of their offsets. -/
def allRegs : List Reg :=
  [.cmd, .arg, .status, .ctrl, .width, .height, .margin, .maxr, .errinfo, .hkconst, .hlow, .nplanes] ++
    (List.finRange 25).map Reg.kcoef ++ (List.finRange 16).map Reg.ptype

/-- The register at an offset of the control window, if one is listed (R36, R61). -/
def regAt (o : Nat) : Option Reg := allRegs.find? fun r => decide (r.offset = o)

/-- What a host address names (R61 to R64). -/
inductive Target where
  | register (r : Reg)
  | planeWord (p : PlaneNo) (i : Nat)
  | unbacked
deriving DecidableEq, Repr

/-- The address map (R61 to R64). `A[27:24]` is the plane and `A[23:2]` the word of the plane window. -/
def targetOf (b : Build) (a : Word) : Target :=
  if a.toNat < 0x1000 then
    match regAt a.toNat with
    | some r => .register r
    | none => .unbacked
  else if bits a 31 28 = 1 then
    if bits a 27 24 < b.nplanes ∧ bits a 23 2 < b.size then
      .planeWord (Fin.ofNat 16 (bits a 27 24)) (bits a 23 2)
    else .unbacked
  else .unbacked

/-- `sext_32` of the 16 stored bits of a coefficient (R35). -/
def kcoefWord (c : BitVec 16) : Word := c.signExtend 32

/-- The word a read of a register returns (R21 to R35). -/
def State.readReg (s : State) : Reg → Word
  | .cmd => 0
  | .arg => s.arg
  | .status => s.statusWord
  | .ctrl => 0
  | .width => BitVec.ofNat 32 s.build.width
  | .height => BitVec.ofNat 32 s.build.height
  | .margin => s.margin
  | .maxr => s.maxr
  | .errinfo => s.errinfo
  | .hkconst => BitVec.ofNat 32 harrisKNum
  | .hlow => BitVec.ofNat 32 harrisLow
  | .nplanes => BitVec.ofNat 32 s.build.nplanes
  | .kcoef i => kcoefWord s.kcoef[i]
  | .ptype p => if p.val < s.build.nplanes then BitVec.ofNat 32 (Tag.code (s.tag p)) else 0

/-- `KCOEF[i] <- v[15:0]` (R35). -/
def State.setKcoef (s : State) (i : Fin 25) (v : Word) : State :=
  { s with kcoef := s.kcoef.set i.val (v.extractLsb' 0 16) i.isLt }

/-- A write of `PTYPE[p]`: the tag of the low 4 bits, ignored where the build has no plane `p` (R31). -/
def State.setPtype (s : State) (p : PlaneNo) (v : Word) : State :=
  if p.val < s.build.nplanes then s.setTag p (Tag.ofCode (bits v 3 0)) else s

/-! ### Errors and resets -/

/-- The error entry, `CmdError(code, w)`: the sticky flag, the code and the whole offending word; nothing
else (R253). -/
def State.cmdError (s : State) (code : ErrCode) (w : Word) : State :=
  { s with err := true, errcode := code, errinfo := w }

/-- The destination plane of the command in flight, if a command is in flight and has one (R281). -/
def State.inflightDst (s : State) : Option PlaneNo := s.inflight.bind fun r => r.instr.dst?

/-- Every word of plane `p` becomes unwritten (R281). -/
def State.erasePlane (s : State) (p : PlaneNo) : State :=
  { s with mem := s.mem.erase (planeBase p) (4 * s.build.size) }

/-- The destination of an aborted command becomes unwritten; with no command in flight nothing does
(R281). -/
def State.abort (s : State) : State :=
  match s.inflightDst with
  | some d => s.erasePlane d
  | none => s

/-- The soft reset, the exit from an error that keeps the other planes' words (R256, R281). -/
def State.softReset (s : State) : State :=
  { s.abort with
    inflight := none
    done := false
    err := false
    maxv := false
    errcode := .none
    arg := 0
    margin := marginReset
    maxr := 0
    errinfo := 0
    kcoef := Vector.replicate 25 0
    tags := Vector.replicate 16 .none }

/-- The hard reset: the state after reset of the same build; what the outside does next is not the
block's to change (R280). -/
def State.hardReset (s : State) : State := { State.resetOf s.build with agenda := s.agenda }

/-! ### Acceptance and completion of a command -/

/-- The snapshots of the source planes, in order; `none` if a word of one of them is unwritten
(R30, R113). -/
def State.snapshots (s : State) : List (PlaneNo × TagRule) → Option (List Snapshot)
  | [] => some []
  | p :: ps =>
    match s.planeWords p.1, s.snapshots ps with
    | some ws, some fs => some ({ tag := s.tag p.1, words := ws } :: fs)
    | _, _ => none

/-- The first error of the checks of R98 that need the state, in their order, or `none` if the command is
accepted. -/
def State.issueError (s : State) (i : Instr) : Option ErrCode :=
  if i.argOk s.arg = false then some .reservedField
  else if i.planes.all (fun p => decide (p.val < s.build.nplanes)) = false then some .planeRange
  else if i.sources.all (fun p => p.2.ok (s.tag p.1)) = false then some .typeMismatch
  else if i.needsMax && !s.maxv then some .noMax
  else none

/-- The in-flight record of a command accepted in this state (R37). -/
def State.record (s : State) (i : Instr) (sources : List Snapshot) : InFlight :=
  { instr := i, arg := s.arg, margin := s.margin, kcoef := s.kcoef, maxr := s.maxr, maxv := s.maxv,
    sources := sources }

/-- `accept(w)`: the record is latched and with it `BUSY` set, as one step (R250). -/
def State.accept (s : State) (r : InFlight) : State := { s with inflight := some r }

/-- A decoded command is issued to an idle engine: an error entry, or acceptance (R98). -/
def issue (i : Instr) (s : State) : Host.Outcome State Fault Refusal :=
  match s.issueError i with
  | some e => .next (s.cmdError e (encode i))
  | none =>
    match s.snapshots i.sources with
    | some fs => .next (s.accept (s.record i fs))
    | none => .fault .unwrittenSource

/-- What a completing command leaves: the words and the tag of its destination plane, or a new frame
maximum, or both (R286). -/
structure Result where
  plane : Option (PlaneNo × Tag × List Word)
  max : Option Word
deriving DecidableEq, Repr

/-- A result that only writes a plane. -/
def Result.toPlane (d : PlaneNo) (t : Tag) (ws : List Word) : Result := { plane := some (d, t, ws), max := none }

/-- The write of the destination plane, words and tag (R114). -/
def State.storePlane (s : State) : Option (PlaneNo × Tag × List Word) → State
  | none => s
  | some (d, t, ws) => { s with mem := s.mem.writeWords (planeBase d) ws, tags := s.tags.set d.val t d.isLt }

/-- The write of `MAXR` with `STATUS.MAXV` (R286). -/
def State.storeMax (s : State) : Option Word → State
  | none => s
  | some m => { s with maxr := m, maxv := true }

/-- The completion step of R286: the result is written, `BUSY` cleared, `DONE` set and the record
discarded, all at once. -/
def State.complete (s : State) (res : Result) : State :=
  { (s.storePlane res.plane).storeMax res.max with inflight := none, done := true }

/-- The whole life of command `i` at the engine. Idle, it is issued; in flight, it completes with the
result its rule computes from the record alone; while another command is in flight its word is an
OVERRUN (R98, R250, R286). -/
def perform (i : Instr) (compute : Build → InFlight → Result) (s : State) :
    Host.Outcome State Fault Refusal :=
  match s.inflight with
  | none => issue i s
  | some r =>
    if r.instr = i then .next (s.complete (compute s.build r))
    else .next (s.cmdError .overrun (encode i))

end Sys2Proof.Machine
end

