-- ==== Sys2Proof/Machine/Window.lean ====
section
/-!
DEFINITION. Machine/Window.lean: frames, the sliding window and its convolution (40_window_engine.md), the
step mechanism of the line buffer that produces the window (R121, R122, R124), and the commands CONV3 and
CONV5.
-/

namespace Sys2Proof.Machine

/-! ### Frames (00_scope.md R18, R19) -/

/-- A frame of elements in row-major order: pixel `(x, y)` is at index `x + y·WIDTH` (R18). -/
abbrev Frame (α : Type) := List α

/-- The element at pixel `(x, y)` of a frame. -/
def frameAt {α : Type} (b : Build) (zero : α) (f : Frame α) (x y : Nat) : α := f.getD (x + y * b.width) zero

/-- The frame whose element at pixel `(x, y)` is `out x y`, in raster order (R19). -/
def frameOf {α : Type} (b : Build) (out : Nat → Nat → α) : Frame α :=
  (List.range b.size).map fun i => out (i % b.width) (i / b.width)

/-! ### The window and its band -/

/-- `window_K(s, x, y)[i][j]`: the source element of row `y-(K-1)+i` and column `x-(K-1)+j`, and the zero
element where either coordinate is negative (R123). -/
def window {α : Type} (k : Nat) (zero : α) (src : Nat → Nat → α) (x y i j : Nat) : α :=
  if k - 1 ≤ x + j ∧ k - 1 ≤ y + i then src (x + j - (k - 1)) (y + i - (k - 1)) else zero

/-- `inband_K(x, y)`, tested on the output coordinate (R125). -/
def inband (b : Build) (k x y : Nat) : Bool :=
  decide (k ≤ x) && decide (x + k < b.width) && decide (k ≤ y) && decide (y + k < b.height)

/-- `Σ kernel[i][j]·W[i][j]`, exact and without flipping (R120). -/
def convolve (k : Nat) (kernel w : Nat → Nat → Int) : Int :=
  sumTo k fun i => sumTo k fun j => kernel i j * w i j

/-- A kernel written as its rows. -/
def kernelOf (rows : List (List Int)) (i j : Nat) : Int := (rows.getD i []).getD j 0

/-- The window of a U8 source as integers (R123 with zero element 0). -/
def windowU8 (k : Nat) (src : Nat → Nat → Byte) (x y i j : Nat) : Int :=
  (window k 0 src x y i j).toNat

/-! ### The step mechanism (R121, R122, R124)

The engine's line buffer and window are zeroed at the start of every command and cannot be read by the
host, so `State` holds neither (R38); what follows is the mechanism that R124 describes, step by step. -/

/-- A sliding-window engine instance: `lb i x` is row `i` of the line buffer and `win i j` the window. -/
structure Engine (α : Type) where
  lb : Nat → Nat → α
  win : Nat → Nat → α

/-- The engine at the start of a command (R121, R122). -/
def Engine.start {α : Type} (zero : α) : Engine α := { lb := fun _ _ => zero, win := fun _ _ => zero }

/-- Column `x` of the line buffer drops its oldest row and appends the sample (R124). -/
def Engine.push {α : Type} (k x : Nat) (sample : α) (e : Engine α) (i x' : Nat) : α :=
  if x' = x then if i + 1 < k then e.lb (i + 1) x else if i + 1 = k then sample else e.lb i x else e.lb i x'

/-- One step at column `x`: the line buffer takes the sample, the window shifts one column and appends the
newest buffer column, and the columns left of the frame are zeroed (R124). -/
def Engine.step {α : Type} (k : Nat) (zero : α) (x : Nat) (sample : α) (e : Engine α) : Engine α where
  lb := e.push k x sample
  win i j :=
    if x + j < k - 1 then zero else if j + 1 < k then e.win i (j + 1) else e.push k x sample i x

/-- The engine after its first `n` steps over a frame in raster order (R19, R124). -/
def Engine.after {α : Type} (b : Build) (k : Nat) (zero : α) (src : Nat → Nat → α) : Nat → Engine α
  | 0 => Engine.start zero
  | n + 1 =>
    (Engine.after b k zero src n).step k zero (n % b.width) (src (n % b.width) (n / b.width))

/-! ### The commands -/

/-- The U8 source `k` of a record, decoded (R101). -/
def InFlight.srcU8 (r : InFlight) (b : Build) (k x y : Nat) : Byte :=
  decodeU8 (frameAt b 0 (r.srcWords k) x y)

/-- One output element of the generic convolution: `wrap_32(asr(acc, shift))` (R126, R127). -/
def convOut (k : Nat) (kernel : Nat → Nat → Int) (shift : Nat) (src : Nat → Nat → Byte) (x y : Nat) : Word :=
  BitVec.ofInt 32 (asr (convolve k kernel (windowU8 k src x y)) shift)

/-- CONV3 (R126). -/
def execConv3 (d a : PlaneNo) (s : State) : Host.Outcome State Fault Refusal :=
  perform (.conv3 d a) (fun b r => .toPlane d .s32
    (frameOf b fun x y => encodeS32 (convOut 3 (r.kernel 3) r.shift (r.srcU8 b 0) x y))) s

/-- CONV5 (R127). -/
def execConv5 (d a : PlaneNo) (s : State) : Host.Outcome State Fault Refusal :=
  perform (.conv5 d a) (fun b r => .toPlane d .s32
    (frameOf b fun x y => encodeS32 (convOut 5 (r.kernel 5) r.shift (r.srcU8 b 0) x y))) s

end Sys2Proof.Machine
end

