-- ==== Sys2Proof/Machine/PixelConversion.lean ====
section
/-!
DEFINITION. Machine/PixelConversion.lean: the pointwise commands TOGRAY, TORGB and COPY
(41_pixel_conversion.md R140 to R142).
-/

namespace Sys2Proof.Machine

/-- The RGB source `k` of a record, decoded (R100). -/
def InFlight.srcRgb (r : InFlight) (b : Build) (k x y : Nat) : Rgb :=
  decodeRgb (frameAt b 0 (r.srcWords k) x y)

/-- The luma of a colour pixel: `asr(77·r + 150·g + 28·b, 8)` (R140). -/
def luma (e : Rgb) : Byte :=
  BitVec.ofInt 8 (asr (lumaR * e.r.toNat + lumaG * e.g.toNat + lumaB * e.b.toNat) 8)

/-- The colour pixel of three equal channels (R141). -/
def broadcast (v : Byte) : Rgb := ⟨v, v, v⟩

/-- TOGRAY (R140). -/
def execTogray (d a : PlaneNo) (s : State) : Host.Outcome State Fault Refusal :=
  perform (.togray d a) (fun b r => .toPlane d .u8
    (frameOf b fun x y => encodeU8 (luma (r.srcRgb b 0 x y)))) s

/-- TORGB (R141). -/
def execTorgb (d a : PlaneNo) (s : State) : Host.Outcome State Fault Refusal :=
  perform (.torgb d a) (fun b r => .toPlane d .rgb
    (frameOf b fun x y => encodeRgb (broadcast (r.srcU8 b 0 x y)))) s

/-- COPY: words and tag of the snapshot, verbatim (R142). -/
def execCopy (d a : PlaneNo) (s : State) : Host.Outcome State Fault Refusal :=
  perform (.copy d a) (fun b r => .toPlane d (r.srcTag 0)
    (frameOf b fun x y => frameAt b 0 (r.srcWords 0) x y)) s

end Sys2Proof.Machine
end

