-- ==== Sys2Proof/Machine/Gaussian.lean ====
section
/-!
DEFINITION. Machine/Gaussian.lean: the smoothing commands GAUSS3 and GAUSS5 (42_gaussian.md R150, R151).
-/

namespace Sys2Proof.Machine

/-- The 3×3 kernel `{1,2,1; 2,4,2; 1,2,1}` (R150). -/
def g3 : Nat → Nat → Int := kernelOf [[1, 2, 1], [2, 4, 2], [1, 2, 1]]

/-- The binomial row `{1,4,6,4,1}` (R151). -/
def binomial (i : Nat) : Int := [1, 4, 6, 4, 1].getD i 0

/-- The 5×5 kernel `{1,4,6,4,1} ⊗ {1,4,6,4,1}` (R151). -/
def g5 (i j : Nat) : Int := binomial i * binomial j

/-- One output pixel of GAUSS3 (R150). -/
def gauss3Out (src : Nat → Nat → Byte) (x y : Nat) : Byte :=
  BitVec.ofInt 8 (asr (convolve 3 g3 (windowU8 3 src x y)) gauss3Shift)

/-- One output pixel of GAUSS5 (R151). -/
def gauss5Out (src : Nat → Nat → Byte) (x y : Nat) : Byte :=
  BitVec.ofInt 8 (asr (convolve 5 g5 (windowU8 5 src x y)) gauss5Shift)

/-- GAUSS3 (R150). -/
def execGauss3 (d a : PlaneNo) (s : State) : Host.Outcome State Fault Refusal :=
  perform (.gauss3 d a) (fun b r => .toPlane d .u8
    (frameOf b fun x y => encodeU8 (gauss3Out (r.srcU8 b 0) x y))) s

/-- GAUSS5 (R151). -/
def execGauss5 (d a : PlaneNo) (s : State) : Host.Outcome State Fault Refusal :=
  perform (.gauss5 d a) (fun b r => .toPlane d .u8
    (frameOf b fun x y => encodeU8 (gauss5Out (r.srcU8 b 0) x y))) s

end Sys2Proof.Machine
end

