-- ==== Sys2Proof/Machine/Gradient.lean ====
section
/-!
DEFINITION. Machine/Gradient.lean: the gradient stage SOBEL, SOBELX, SOBELY (43_gradient.md R160 to R165).
-/

namespace Sys2Proof.Machine

/-- The horizontal kernel `KX` (R160). -/
def kx : Nat → Nat → Int := kernelOf [[1, 0, -1], [2, 0, -2], [1, 0, -1]]

/-- The vertical kernel `KY` (R160). -/
def ky : Nat → Nat → Int := kernelOf [[1, 2, 1], [0, 0, 0], [-1, -2, -1]]

/-- `gx(W)` of a 3×3 window (R160). -/
def gradX (w : Nat → Nat → Int) : Int := convolve 3 kx w

/-- `gy(W)` of a 3×3 window (R160). -/
def gradY (w : Nat → Nat → Int) : Int := convolve 3 ky w

/-- The integer nearest to the square root of `n`: one more than `isqrt n` exactly when `n > m·m + m`
(R161). -/
def roundSqrt (n : Nat) : Nat :=
  if isqrt n * isqrt n + isqrt n < n then isqrt n + 1 else isqrt n

/-- The magnitude of a gradient: the rounded square root, saturated to 255 (R161). -/
def magnitude (gx gy : Int) : Nat := min (roundSqrt (gx * gx + gy * gy).toNat) magMax

/-- The direction of the quotient `t`; both ends of the range of `t` give 90° (R162). -/
def directionOfSlope (t : Int) : Direction :=
  if -dirT2 < t ∧ t ≤ -dirT1 then .deg135
  else if -dirT1 < t ∧ t ≤ dirT1 then .deg0
  else if dirT1 < t ∧ t < dirT2 then .deg45
  else .deg90

/-- The direction of a gradient; `gx = 0` gives 90° (R162). -/
def direction (gx gy : Int) : Direction :=
  if gx = 0 then .deg90 else directionOfSlope (tdiv (gy * 256) gx)

/-- One output pixel of SOBEL: the magnitude is forced to 0 outside the band, the direction is not
(R163). -/
def sobelOut (b : Build) (src : Nat → Nat → Byte) (x y : Nat) : DirPixel :=
  let gx := gradX (windowU8 3 src x y)
  let gy := gradY (windowU8 3 src x y)
  { mag := BitVec.ofNat 8 (if inband b kEdge x y then magnitude gx gy else 0), dir := direction gx gy }

/-- One output pixel of SOBELX: the raw gradient, with no band (R164). -/
def sobelxOut (src : Nat → Nat → Byte) (x y : Nat) : BitVec 16 :=
  BitVec.ofInt 16 (gradX (windowU8 3 src x y))

/-- One output pixel of SOBELY (R165). -/
def sobelyOut (src : Nat → Nat → Byte) (x y : Nat) : BitVec 16 :=
  BitVec.ofInt 16 (gradY (windowU8 3 src x y))

/-- SOBEL (R163). -/
def execSobel (d a : PlaneNo) (s : State) : Host.Outcome State Fault Refusal :=
  perform (.sobel d a) (fun b r => .toPlane d .dir
    (frameOf b fun x y => encodeDir (sobelOut b (r.srcU8 b 0) x y))) s

/-- SOBELX (R164). -/
def execSobelx (d a : PlaneNo) (s : State) : Host.Outcome State Fault Refusal :=
  perform (.sobelx d a) (fun b r => .toPlane d .s16
    (frameOf b fun x y => encodeS16 (sobelxOut (r.srcU8 b 0) x y))) s

/-- SOBELY (R165). -/
def execSobely (d a : PlaneNo) (s : State) : Host.Outcome State Fault Refusal :=
  perform (.sobely d a) (fun b r => .toPlane d .s16
    (frameOf b fun x y => encodeS16 (sobelyOut (r.srcU8 b 0) x y))) s

end Sys2Proof.Machine
end

