-- ==== Sys2Proof/Machine/Edge.lean ====
section
/-!
DEFINITION. Machine/Edge.lean: EDGE_NMS, THRESHOLD and BORDER_ZERO (44_edge.md R180 to R185).
-/

namespace Sys2Proof.Machine

/-- The DIR source `k` of a record, decoded (R102). -/
def InFlight.srcDir (r : InFlight) (b : Build) (k x y : Nat) : DirPixel :=
  decodeDir (frameAt b 0 (r.srcWords k) x y)

/-- The two neighbours edge suppression compares with, by the direction of the centre (R181). -/
def edgeNeighbours (w : Nat → Nat → DirPixel) : Direction → DirPixel × DirPixel
  | .deg0 => (w 1 0, w 1 2)
  | .deg45 => (w 0 0, w 2 2)
  | .deg90 => (w 0 1, w 2 1)
  | .deg135 => (w 2 0, w 0 2)

/-- The centre magnitude, or 0 if it is smaller than that of either neighbour; a tie keeps it (R180). -/
def suppressEdge (w : Nat → Nat → DirPixel) : Byte :=
  let n := edgeNeighbours w (w 1 1).dir
  if (w 1 1).mag < n.1.mag ∨ (w 1 1).mag < n.2.mag then 0 else (w 1 1).mag

/-- One output pixel of EDGE_NMS: 0 outside the band (R180). -/
def edgeNmsOut (b : Build) (src : Nat → Nat → DirPixel) (x y : Nat) : Byte :=
  if inband b kEdge x y then suppressEdge (window 3 zeroDir src x y) else 0

/-- One output pixel of THRESHOLD: an exact integer comparison (R183). -/
def thresholdOut (thr : Int) (v : Byte) : Byte := if thr ≤ v.toNat then 255 else 0

/-- The pixel lies within margin `m` of an edge of the frame (R185). -/
def inMargin (b : Build) (m x y : Nat) : Bool :=
  decide (x < m) || decide (b.width ≤ x + m) || decide (y < m) || decide (b.height ≤ y + m)

/-- One output pixel of BORDER_ZERO (R185). -/
def borderZeroOut (b : Build) (m : Nat) (src : Nat → Nat → Byte) (x y : Nat) : Byte :=
  if inMargin b m x y then 0 else src x y

/-- EDGE_NMS (R180). -/
def execEdgeNms (d a : PlaneNo) (s : State) : Host.Outcome State Fault Refusal :=
  perform (.edgeNms d a) (fun b r => .toPlane d .u8
    (frameOf b fun x y => encodeU8 (edgeNmsOut b (r.srcDir b 0) x y))) s

/-- THRESHOLD (R183). -/
def execThreshold (d a : PlaneNo) (s : State) : Host.Outcome State Fault Refusal :=
  perform (.threshold d a) (fun b r => .toPlane d .u8
    (frameOf b fun x y => encodeU8 (thresholdOut r.argInt (r.srcU8 b 0 x y)))) s

/-- BORDER_ZERO (R185). -/
def execBorderZero (d a : PlaneNo) (s : State) : Host.Outcome State Fault Refusal :=
  perform (.borderZero d a) (fun b r => .toPlane d .u8
    (frameOf b fun x y => encodeU8 (borderZeroOut b r.marginNat (r.srcU8 b 0) x y))) s

end Sys2Proof.Machine
end

