-- ==== Sys2Proof/Machine/Corner.lean ====
section
/-!
DEFINITION. Machine/Corner.lean: the corner stage PRODUCT, RESPONSE, GLOBAL_MAX, DECIDE and CORNER_NMS
(45_corner.md R200 to R219).
-/

namespace Sys2Proof.Machine

/-- The S16 source `k` of a record, decoded (R103). -/
def InFlight.srcS16 (r : InFlight) (b : Build) (k x y : Nat) : BitVec 16 :=
  decodeS16 (frameAt b 0 (r.srcWords k) x y)

/-- The U16 source `k` of a record, decoded (R104). -/
def InFlight.srcU16 (r : InFlight) (b : Build) (k x y : Nat) : BitVec 16 :=
  decodeU16 (frameAt b 0 (r.srcWords k) x y)

/-- The S32 source `k` of a record, decoded (R105). -/
def InFlight.srcS32 (r : InFlight) (b : Build) (k x y : Nat) : Word :=
  decodeS32 (frameAt b 0 (r.srcWords k) x y)

/-- The WPIX source `k` of a record, decoded (R106). -/
def InFlight.srcWPix (r : InFlight) (b : Build) (k x y : Nat) : WPixel :=
  decodeWPix (frameAt b 0 (r.srcWords k) x y)

/-- One product: `trunc_16` of the exact signed product (R201). -/
def productOut (p q : BitVec 16) : BitVec 16 := BitVec.ofInt 16 (p.toInt * q.toInt)

/-- The response of one pixel: exact `det` and `trace`, the fixed-point difference shifted, the score
reduced to 32 bits (R204). -/
def responseOut (ixx iyy ixy : BitVec 16) : Word :=
  let det : Int := (ixx.toNat * iyy.toNat : Int) - ixy.toNat * ixy.toNat
  let trace : Int := ixx.toNat + iyy.toNat
  BitVec.ofInt 32 (asr (det * 2 ^ harrisKShift - harrisKNum * trace ^ 2) harrisKShift)

/-- The maximum of all scores of a frame, border included, started at the score of pixel `(0, 0)`
(R210). -/
def frameMax (b : Build) (src : Nat → Nat → Word) : Int :=
  (frameOf b src).foldl (fun mx v => if mx < v.toInt then v.toInt else mx) (src 0 0).toInt

/-- The class of one score against `high = mx - thresUp`, the edge test first (R213). -/
def classifyOut (r mx thresUp : Int) : WPixel :=
  if r < harrisLow then ⟨BitVec.ofInt 16 (asr (wrap 32 (-r)) 8), .edge⟩
  else if mx - thresUp < r then ⟨BitVec.ofInt 16 (asr r 8), .corner⟩
  else ⟨0, .flat⟩

/-- The largest value of the corners of a 5×5 window (R218). -/
def maxCorner (w : Nat → Nat → WPixel) : Nat :=
  maxTo 5 fun i => maxTo 5 fun j => if (w i j).kind = .corner then (w i j).value.toNat else 0

/-- The centre of a 5×5 window, demoted to `(0, flat)` if it is a corner below the largest corner
(R218). -/
def suppressCorner (w : Nat → Nat → WPixel) : WPixel :=
  if (w 2 2).kind = .corner then if maxCorner w ≤ (w 2 2).value.toNat then w 2 2 else zeroWPix
  else w 2 2

/-- One output pixel of CORNER_NMS: `(0, flat)` outside the band (R218, R219). -/
def cornerNmsOut (b : Build) (src : Nat → Nat → WPixel) (x y : Nat) : WPixel :=
  if inband b kCorner x y then suppressCorner (window 5 zeroWPix src x y) else zeroWPix

/-- PRODUCT (R201). -/
def execProduct (d a b : PlaneNo) (s : State) : Host.Outcome State Fault Refusal :=
  perform (.product d a b) (fun g r => .toPlane d .u16
    (frameOf g fun x y => encodeU16 (productOut (r.srcS16 g 0 x y) (r.srcS16 g 1 x y)))) s

/-- RESPONSE (R205). -/
def execResponse (d a b c : PlaneNo) (s : State) : Host.Outcome State Fault Refusal :=
  perform (.response d a b c) (fun g r => .toPlane d .s32
    (frameOf g fun x y =>
      encodeS32 (responseOut (r.srcU16 g 0 x y) (r.srcU16 g 1 x y) (r.srcU16 g 2 x y)))) s

/-- GLOBAL_MAX: `MAXR` and `MAXV` at completion, no plane (R210). -/
def execGlobalMax (a : PlaneNo) (s : State) : Host.Outcome State Fault Refusal :=
  perform (.globalMax a) (fun b r =>
    { plane := none, max := some (BitVec.ofInt 32 (frameMax b (r.srcS32 b 0))) }) s

/-- DECIDE (R214). -/
def execClassify (d a : PlaneNo) (s : State) : Host.Outcome State Fault Refusal :=
  perform (.classify d a) (fun b r => .toPlane d .wpix
    (frameOf b fun x y => encodeWPix (classifyOut (r.srcS32 b 0 x y).toInt r.maxInt r.argInt))) s

/-- CORNER_NMS (R218). -/
def execCornerNms (d a : PlaneNo) (s : State) : Host.Outcome State Fault Refusal :=
  perform (.cornerNms d a) (fun b r => .toPlane d .wpix
    (frameOf b fun x y => encodeWPix (cornerNmsOut b (r.srcWPix b 0) x y))) s

end Sys2Proof.Machine
end

