-- ==== Sys2Proof/Machine/Pipelines.lean ====
section
/-!
DEFINITION. Machine/Pipelines.lean: the composite commands CANNY and HARRIS (46_pipelines.md R229 to R236).
Each stage reads the whole output frame of the stage before it; these frames are no planes (R229).
-/

namespace Sys2Proof.Machine

/-- The frames between the stages of CANNY, and its output (R230). -/
def cannyFrame (b : Build) (thr : Int) (m : Nat) (src : Nat → Nat → Rgb) : Frame Rgb :=
  let g := frameOf b fun x y => luma (src x y)
  let s := frameOf b (gauss3Out (frameAt b 0 g))
  let e := frameOf b (sobelOut b (frameAt b 0 s))
  let n := frameOf b (edgeNmsOut b (frameAt b zeroDir e))
  let t := frameOf b fun x y => thresholdOut thr (frameAt b 0 n x y)
  let z := frameOf b (borderZeroOut b m (frameAt b 0 t))
  frameOf b fun x y => broadcast (frameAt b 0 z x y)

/-- The score frame `r` of HARRIS: the stages up to RESPONSE (R234). -/
def harrisScores (b : Build) (src : Nat → Nat → Rgb) : Frame Word :=
  let g := frameOf b fun x y => luma (src x y)
  let s := frameOf b (gauss3Out (frameAt b 0 g))
  let gx := frameOf b (sobelxOut (frameAt b 0 s))
  let gy := frameOf b (sobelyOut (frameAt b 0 s))
  let ixx := frameOf b fun x y => productOut (frameAt b 0 gx x y) (frameAt b 0 gx x y)
  let iyy := frameOf b fun x y => productOut (frameAt b 0 gy x y) (frameAt b 0 gy x y)
  let ixy := frameOf b fun x y => productOut (frameAt b 0 gx x y) (frameAt b 0 gy x y)
  frameOf b fun x y => responseOut (frameAt b 0 ixx x y) (frameAt b 0 iyy x y) (frameAt b 0 ixy x y)

/-- The output frame of HARRIS from its scores and their maximum: DECIDE, then CORNER_NMS (R234, R236). -/
def harrisClasses (b : Build) (thresUp mx : Int) (scores : Frame Word) : Frame WPixel :=
  let c := frameOf b fun x y => classifyOut (frameAt b 0 scores x y).toInt mx thresUp
  frameOf b (cornerNmsOut b (frameAt b zeroWPix c))

/-- CANNY (R230). -/
def execCanny (d a : PlaneNo) (s : State) : Host.Outcome State Fault Refusal :=
  perform (.canny d a) (fun b r => .toPlane d .rgb
    ((cannyFrame b r.argInt r.marginNat (r.srcRgb b 0)).map encodeRgb)) s

/-- The result of HARRIS: the plane and the maximum, written together at completion (R234, R236). -/
def harrisResult (d : PlaneNo) (b : Build) (r : InFlight) : Result :=
  let scores := harrisScores b (r.srcRgb b 0)
  let mx := frameMax b (frameAt b 0 scores)
  { plane := some (d, .wpix, (harrisClasses b r.argInt mx scores).map encodeWPix),
    max := some (BitVec.ofInt 32 mx) }

/-- HARRIS (R234). -/
def execHarris (d a : PlaneNo) (s : State) : Host.Outcome State Fault Refusal :=
  perform (.harris d a) (harrisResult d) s

end Sys2Proof.Machine
end

