-- ==== Sys2Proof/Machine/Dispatch.lean ====
section
/-!
DEFINITION. Machine/Dispatch.lean: from a command to its meaning, one arm per constructor of `Instr`.
-/

namespace Sys2Proof.Machine

/-- The step of the engine for command `i`: issue while it is idle, completion while `i` is in flight
(60_exceptions.md R250, 70_reset_and_hazards.md R286). -/
def exec (i : Instr) (s : State) : Host.Outcome State Fault Refusal :=
  match i with
  | .conv3 d a => Sys2Proof.Machine.execConv3 d a s
  | .conv5 d a => Sys2Proof.Machine.execConv5 d a s
  | .togray d a => Sys2Proof.Machine.execTogray d a s
  | .torgb d a => Sys2Proof.Machine.execTorgb d a s
  | .copy d a => Sys2Proof.Machine.execCopy d a s
  | .gauss3 d a => Sys2Proof.Machine.execGauss3 d a s
  | .gauss5 d a => Sys2Proof.Machine.execGauss5 d a s
  | .sobel d a => Sys2Proof.Machine.execSobel d a s
  | .sobelx d a => Sys2Proof.Machine.execSobelx d a s
  | .sobely d a => Sys2Proof.Machine.execSobely d a s
  | .edgeNms d a => Sys2Proof.Machine.execEdgeNms d a s
  | .threshold d a => Sys2Proof.Machine.execThreshold d a s
  | .borderZero d a => Sys2Proof.Machine.execBorderZero d a s
  | .product d a b => Sys2Proof.Machine.execProduct d a b s
  | .response d a b c => Sys2Proof.Machine.execResponse d a b c s
  | .globalMax a => Sys2Proof.Machine.execGlobalMax a s
  | .classify d a => Sys2Proof.Machine.execClassify d a s
  | .cornerNms d a => Sys2Proof.Machine.execCornerNms d a s
  | .canny d a => Sys2Proof.Machine.execCanny d a s
  | .harris d a => Sys2Proof.Machine.execHarris d a s

end Sys2Proof.Machine
end

