-- ==== Sys2Proof/Machine/HostPort.lean ====
section
/-!
DEFINITION. Machine/HostPort.lean: the accesses of the host (20_memory.md R60 to R67), the acceptance rule of
a command word (60_exceptions.md R250), and the completion step of the engine (70_reset_and_hazards.md R286).
-/

namespace Sys2Proof.Machine

/-- The host port returns `v` for the read of this step. -/
def State.answer (s : State) (v : Word) : State := { s with rdata := some v }

/-- What the port asks of every access: 4 bytes, at an address with `addr[1:0] = 0` (R60, R66). -/
def accessRefusal (addr : Word) (size : Nat) : Option Refusal :=
  if size ≠ 4 then some .accessSize else if bits addr 1 0 ≠ 0 then some .misaligned else none

/-- A word `w` written to `CMD`: dropped after an error, an OVERRUN while busy, else decoded with `DONE`
cleared (R250). -/
def writeCmd (w : Word) (s : State) : Host.Outcome State Fault Refusal :=
  if s.err then .next s
  else if s.busy then .next (s.cmdError .overrun w)
  else
    match decode w with
    | .ok i => exec i { s with done := false }
    | .error e => .next ({ s with done := false }.cmdError e.errCode w)

/-- A word written to a control register (10_state.md R21 to R36); read-only registers ignore it. -/
def writeReg (v : Word) (s : State) : Reg → Host.Outcome State Fault Refusal
  | .cmd => writeCmd v s
  | .arg => .next { s with arg := v }
  | .ctrl => .next (if bits v 0 0 = 1 then s.softReset else s)
  | .margin => .next { s with margin := v }
  | .kcoef i => .next (s.setKcoef i v)
  | .ptype p => if s.busy then .refused .ptypeWriteWhileBusy else .next (s.setPtype p v)
  | .status => .next s
  | .width => .next s
  | .height => .next s
  | .maxr => .next s
  | .errinfo => .next s
  | .hkconst => .next s
  | .hlow => .next s
  | .nplanes => .next s

/-- `MemRead(addr, size)` (R60 to R67). -/
def hostRead (addr : Word) (size : Nat) (s : State) : Host.Outcome State Fault Refusal :=
  match accessRefusal addr size with
  | some r => .refused r
  | none =>
    match targetOf s.build addr with
    | .unbacked => .next (s.answer 0)
    | .register r => .next (s.answer (s.readReg r))
    | .planeWord p i =>
      if s.busy then .refused .planeAccessWhileBusy
      else
        match s.planeWord p i with
        | some v => .next (s.answer v)
        | none => .fault .unwrittenRead

/-- `MemWrite(addr, size, v)` (R60 to R67). -/
def hostWrite (addr : Word) (size : Nat) (v : Word) (s : State) : Host.Outcome State Fault Refusal :=
  match accessRefusal addr size with
  | some r => .refused r
  | none =>
    match targetOf s.build addr with
    | .unbacked => .next s
    | .register r => writeReg v s r
    | .planeWord p i =>
      if s.busy then .refused .planeAccessWhileBusy
      else .next { s with mem := s.mem.writeWord (planeAddr p i) v }

/-- The engine's turn: the command in flight completes; with none in flight nothing happens (R286). -/
def engineTurn (s : State) : Host.Outcome State Fault Refusal :=
  match s.inflight with
  | some r => exec r.instr s
  | none => .next s

/-- The event leaves the agenda, and the read data of the step before it leaves the port. -/
def State.advance (s : State) (rest : List Event) : State := { s with agenda := rest, rdata := none }

/-- `WAIT`: while a command is in flight the polls return `BUSY = 1` until the engine completes; then a
read of `STATUS` ends the wait (30_encoding.md R116, 70_reset_and_hazards.md R286). -/
def waitTurn (rest : List Event) (s : State) : Host.Outcome State Fault Refusal :=
  if s.busy then engineTurn (s.advance s.agenda)
  else .next ((s.advance rest).answer s.statusWord)

/-- What the next event of the agenda does. With an empty agenda only the engine can move: a command in
flight completes (R286). -/
def takeTurn (s : State) : Host.Outcome State Fault Refusal :=
  match s.agenda with
  | [] => engineTurn (s.advance [])
  | .read addr size :: rest => hostRead addr size (s.advance rest)
  | .write addr size v :: rest => hostWrite addr size v (s.advance rest)
  | .wait :: rest => waitTurn rest s
  | .engine :: rest => engineTurn (s.advance rest)
  | .hardReset :: rest => .next (s.advance rest).hardReset

/-- The machine with a command word about to be written to `CMD` by the host, on an idle engine with no
error recorded, so that the next step decodes exactly this word. -/
def State.offerCommand (s : State) (w : Word) : State :=
  { s with
    inflight := none
    err := false
    errcode := .none
    errinfo := 0
    agenda := .write 0x000 4 w :: s.agenda }

end Sys2Proof.Machine
end

