-- ==== Sys2Proof/Machine/Step.lean ====
section
/-!
DEFINITION. Machine/Step.lean: one step of the machine. The block runs no program of its own (10_state.md
R20, 20_memory.md R74): a step is the next event of the agenda.
-/

namespace Sys2Proof.Machine

/-- One step. An illegal configuration is refused (00_scope.md R10). -/
def step (s : State) : Host.Outcome State Fault Refusal :=
  if s.build.legal then takeTurn s else .refused .illegalBuild

/-- The machine that runs the command of this opcode-table word in its very next step (log entry 4). -/
def State.withFetchWord (s : State) (nbits w : Nat) : State := s.offerCommand (tableWord nbits w)

end Sys2Proof.Machine
end

