-- ==== Sys2Proof/Machine/Assembler.lean ====
section
/-!
DEFINITION. Machine/Assembler.lean: the spec's assembler: its lines, what host accesses each line expands to,
and how a line is written and read (30_encoding.md R115, R116).
-/

namespace Sys2Proof.Machine

/-- A line of assembler: a command with its optional `#imm`, or a pseudo-instruction (R115, R116). -/
inductive AsmLine where
  | command (i : Instr) (imm : Option Int)
  | wait
  | issue (w : Word)
  | setArg (v : Int)
  | setMargin (v : Int)
  | setK (i : Fin 25) (v : Int)
  | setType (p : PlaneNo) (t : Tag)
  | put (p : PlaneNo) (x y : Nat) (v : Int)
  | get (p : PlaneNo) (x y : Nat)
  | srst
deriving DecidableEq, Repr

/-- `#imm` is allowed only for the commands that read `ARG` (R115). -/
def AsmLine.wellFormed : AsmLine → Bool
  | .command i (some _) => i.readsArg
  | _ => true

/-- `MemWrite(addr, 4, trunc_32(v))`. -/
def writeInt (addr : Nat) (v : Int) : Event := .write (BitVec.ofNat 32 addr) 4 (BitVec.ofInt 32 v)

/-- The address of pixel `(x, y)` of plane `p` (R62, R116). -/
def pixelAddr (b : Build) (p : PlaneNo) (x y : Nat) : Nat := planeAddr p (x + y * b.width)

/-- The host accesses a line expands to (R116). -/
def AsmLine.expand (b : Build) : AsmLine → List Event
  | .command i imm =>
    (imm.toList.map (writeInt 0x004)) ++ [.write 0x000 4 (encode i), .wait]
  | .wait => [.wait]
  | .issue w => [.write 0x000 4 w]
  | .setArg v => [writeInt 0x004 v]
  | .setMargin v => [writeInt 0x018 v]
  | .setK i v => [writeInt (0x100 + 4 * i.val) v]
  | .setType p t => [writeInt (0x200 + 4 * p.val) (Tag.code t)]
  | .put p x y v => [writeInt (pixelAddr b p x y) v]
  | .get p x y => [.read (BitVec.ofNat 32 (pixelAddr b p x y)) 4]
  | .srst => [.write 0x00C 4 1]

/-- The host accesses of a program, line by line. -/
def assemble (b : Build) (program : List AsmLine) : List Event := program.flatMap (AsmLine.expand b)

/-- A plane as the assembler writes it, `p0` to `p15` (R115). -/
def planeText (p : PlaneNo) : String := "p" ++ toString p.val

/-- The name of a tag (R108). -/
def Tag.text : Tag → String
  | .none => "NONE"
  | .rgb => "RGB"
  | .u8 => "U8"
  | .dir => "DIR"
  | .s16 => "S16"
  | .u16 => "U16"
  | .s32 => "S32"
  | .wpix => "WPIX"

/-- An integer operand as the assembler writes it, `#` and a decimal (R115). -/
def immText (v : Int) : String := "#" ++ toString v

/-- A line as the assembler writes it: the mnemonic and its operands, in field order (R115, R116). -/
def AsmLine.text : AsmLine → String
  | .command i imm => i.mnemonic ++ " " ++ ", ".intercalate (i.planes.map planeText ++ imm.toList.map immText)
  | .wait => "WAIT"
  | .issue w => "ISSUE " ++ immText w.toNat
  | .setArg v => "SETARG " ++ immText v
  | .setMargin v => "SETMARGIN " ++ immText v
  | .setK i v => "SETK " ++ immText i.val ++ ", " ++ immText v
  | .setType p t => "SETTYPE " ++ planeText p ++ ", " ++ t.text
  | .put p x y v => "PUT " ++ planeText p ++ ", " ++ immText x ++ ", " ++ immText y ++ ", " ++ immText v
  | .get p x y => "GET " ++ planeText p ++ ", " ++ immText x ++ ", " ++ immText y
  | .srst => "SRST"

/-! ### Reading a line -/

/-- An operand of a line: a plane, an integer after `#`, or the name of a tag (R115, R116). -/
inductive AsmOperand where
  | plane (p : PlaneNo)
  | imm (v : Int)
  | tag (t : Tag)
deriving DecidableEq, Repr

/-- White space within a line. -/
def isBlank (c : Char) : Bool := decide (c = ' ') || decide (c = '\t')

/-- The text without the white space at its ends. -/
def trimBlanks (cs : List Char) : List Char := ((cs.dropWhile isBlank).reverse.dropWhile isBlank).reverse

/-- The pieces of a text between its commas. -/
def splitCommas : List Char → List (List Char)
  | [] => [[]]
  | c :: cs =>
    if c = ',' then [] :: splitCommas cs
    else
      match splitCommas cs with
      | [] => [[c]]
      | piece :: pieces => (c :: piece) :: pieces

/-- The value of a digit, hexadecimal ones included. -/
def digitValue (c : Char) : Option Nat :=
  let n := c.toNat
  if 48 ≤ n ∧ n ≤ 57 then some (n - 48)
  else if 97 ≤ n ∧ n ≤ 102 then some (n - 87)
  else if 65 ≤ n ∧ n ≤ 70 then some (n - 55)
  else none

/-- The number that digits of a base continue. -/
def readDigits (base : Nat) : Nat → List Char → Option Nat
  | acc, [] => some acc
  | acc, c :: cs =>
    match digitValue c with
    | some d => if d < base then readDigits base (acc * base + d) cs else none
    | none => none

/-- A decimal number, or a hexadecimal one after `0x` (R115). -/
def readNat : List Char → Option Nat
  | [] => none
  | '0' :: 'x' :: c :: cs => readDigits 16 0 (c :: cs)
  | c :: cs => readDigits 10 0 (c :: cs)

/-- An integer: a number with an optional minus sign. -/
def readInt : List Char → Option Int
  | '-' :: cs => (readNat cs).map fun n => -(n : Int)
  | cs => (readNat cs).map fun n => (n : Int)

/-- The plane a text names, `p0` to `p15` (R115). -/
def readPlane (cs : List Char) : Option PlaneNo :=
  (List.finRange 16).find? fun p => decide ((planeText p).toList = cs)

/-- The tag a text names (R108). -/
def readTag (cs : List Char) : Option Tag :=
  [Tag.none, .rgb, .u8, .dir, .s16, .u16, .s32, .wpix].find? fun t => decide (t.text.toList = cs)

/-- One operand. -/
def readOperand : List Char → Option AsmOperand
  | '#' :: cs => (readInt cs).map .imm
  | cs =>
    match readPlane cs with
    | some p => some (.plane p)
    | none => (readTag cs).map .tag

/-- The operands of a line; `none` if one of them cannot be read. -/
def readOperands : List (List Char) → Option (List AsmOperand)
  | [] => some []
  | cs :: rest =>
    match readOperand (trimBlanks cs), readOperands rest with
    | some o, some os => some (o :: os)
    | _, _ => none

/-- The commands that name these planes, in the order of their fields (R92, R95). -/
def commandsOn : List PlaneNo → List Instr
  | [a] => [.globalMax a]
  | [d, a] =>
    [.conv3 d a, .conv5 d a, .togray d a, .torgb d a, .copy d a, .gauss3 d a, .gauss5 d a, .sobel d a,
      .sobelx d a, .sobely d a, .edgeNms d a, .threshold d a, .borderZero d a, .classify d a,
      .cornerNms d a, .canny d a, .harris d a]
  | [d, a, b] => [.product d a b]
  | [d, a, b, c] => [.response d a b c]
  | _ => []

/-- The planes at the front of a list of operands, and the operands behind them. -/
def takePlanes : List AsmOperand → List PlaneNo × List AsmOperand
  | .plane p :: os => (p :: (takePlanes os).1, (takePlanes os).2)
  | os => ([], os)

/-- A command line from its mnemonic and operands; `#imm` only for the commands that read `ARG` (R115). -/
def commandLine (mnemonic : String) (os : List AsmOperand) : Option AsmLine :=
  match (commandsOn (takePlanes os).1).find? fun i => decide (i.mnemonic = mnemonic), (takePlanes os).2 with
  | some i, [] => some (.command i none)
  | some i, [.imm v] => if i.readsArg then some (.command i (some v)) else none
  | _, _ => none

/-- A line from its first word and operands: a pseudo-instruction of R116 or a command. -/
def lineOf (word : String) (os : List AsmOperand) : Option AsmLine :=
  if word = "WAIT" then if os = [] then some .wait else none
  else if word = "SRST" then if os = [] then some .srst else none
  else if word = "ISSUE" then
    match os with
    | [.imm w] => if 0 ≤ w ∧ w < 2 ^ 32 then some (.issue (BitVec.ofInt 32 w)) else none
    | _ => none
  else if word = "SETARG" then
    match os with
    | [.imm v] => some (.setArg v)
    | _ => none
  else if word = "SETMARGIN" then
    match os with
    | [.imm v] => some (.setMargin v)
    | _ => none
  else if word = "SETK" then
    match os with
    | [.imm i, .imm v] => if 0 ≤ i ∧ i ≤ 24 then some (.setK (Fin.ofNat 25 i.toNat) v) else none
    | _ => none
  else if word = "SETTYPE" then
    match os with
    | [.plane p, .tag t] => some (.setType p t)
    | _ => none
  else if word = "PUT" then
    match os with
    | [.plane p, .imm x, .imm y, .imm v] => if 0 ≤ x ∧ 0 ≤ y then some (.put p x.toNat y.toNat v) else none
    | _ => none
  else if word = "GET" then
    match os with
    | [.plane p, .imm x, .imm y] => if 0 ≤ x ∧ 0 ≤ y then some (.get p x.toNat y.toNat) else none
    | _ => none
  else commandLine word os

/-- The line that a text is, after its comment, which starts with `;`, is taken off (R115). -/
def readLine (text : String) : Option AsmLine :=
  let cs := trimBlanks (text.toList.takeWhile fun c => decide (c ≠ ';'))
  let word := String.ofList (cs.takeWhile fun c => !isBlank c)
  let rest := trimBlanks (cs.dropWhile fun c => !isBlank c)
  match readOperands (if rest = [] then [] else splitCommas rest) with
  | some os => lineOf word os
  | none => none

/-- A text that holds no line: white space or a comment alone. -/
def emptyLine (text : String) : Bool :=
  decide (trimBlanks (text.toList.takeWhile fun c => decide (c ≠ ';')) = [])

/-- A program, one command or pseudo-instruction a line (R115); `none` if a line of it cannot be read. -/
def readProgram : List String → Option (List AsmLine)
  | [] => some []
  | text :: texts =>
    if emptyLine text then readProgram texts
    else
      match readLine text, readProgram texts with
      | some l, some ls => some (l :: ls)
      | _, _ => none

end Sys2Proof.Machine
end

