-- ==== Sys2Proof/Safety.lean ====
section
/-!
DEFINITION. Safety.lean: the terms in which claims about the machine are stated: its invariant, what a
completed command leaves, what a snapshot is a copy of, and safe steps.
-/

namespace Sys2Proof.Machine

/-- A step that goes on. -/
def SafeStep (s : State) : Prop := ∃ t, step s = .next t

/-! ### The invariant -/

/-- The plane memory of a state: canonical, only bytes of backed plane words, and each word written or
unwritten as a whole (10_state.md R30, 20_memory.md R60, R62). -/
structure State.MemInv (s : State) : Prop where
  wf : Memory.wf s.mem
  backed : ∀ c ∈ s.mem, ∃ (p : PlaneNo) (i k : Nat),
    p.val < s.build.nplanes ∧ i < s.build.size ∧ k < 4 ∧ c.1 = planeAddr p i + k
  whole : ∀ (p : PlaneNo) (i : Nat), i < s.build.size → s.planeWord p i = none →
    ∀ k < 4, s.mem.read (planeAddr p i + k) = none

/-- The status registers of a state agree with one another (10_state.md R24 to R27, R33;
60_exceptions.md R252, R253). -/
structure State.StatusInv (s : State) : Prop where
  errCode : s.err = true ↔ s.errcode ≠ .none
  errInfo : s.err = false → s.errinfo = 0
  maxReset : s.maxv = false → s.maxr = 0
  doneErr : s.done = true → s.errcode = .none ∨ s.errcode = .overrun
  busyDone : s.busy = true → s.done = false
  busyErr : s.busy = true → s.errcode = .none ∨ s.errcode = .overrun

/-- The in-flight record of a state is that of a legal command, and what it latched is still what the
source planes and the maximum hold (R37, R284; 30_encoding.md R98, R113). -/
structure InFlight.Coherent (r : InFlight) (s : State) : Prop where
  wellFormed : r.instr.wellFormed s.build = true
  argOk : r.instr.argOk r.arg = true
  tagsOk : ∀ p ∈ r.instr.sources, p.2.ok (s.tag p.1) = true
  needsMax : r.instr.needsMax = true → r.maxv = true
  sources : s.snapshots r.instr.sources = some r.sources
  maxr : r.maxr = s.maxr
  maxv : r.maxv = s.maxv

/-- The invariant of the machine. -/
structure State.Inv (s : State) : Prop where
  legal : s.build.legal = true
  mem : s.MemInv
  status : s.StatusInv
  noTagBeyond : ∀ p : PlaneNo, s.build.nplanes ≤ p.val → s.tag p = .none
  record : ∀ r, s.inflight = some r → r.Coherent s

/-! ### Acceptance and completion -/

/-- `f` is a copy of the tag and of all words of plane `p` (30_encoding.md R113). -/
def SnapshotOf (s : State) (p : PlaneNo × TagRule) (f : Snapshot) : Prop :=
  f.tag = s.tag p.1 ∧ f.words.length = s.build.size ∧
    ∀ i < s.build.size, s.planeWord p.1 i = f.words[i]?

/-- The word of source `k` at pixel `(x, y)`, from the snapshot in the record (00_scope.md R17). -/
def InFlight.pixel (r : InFlight) (b : Build) (k x y : Nat) : Word :=
  (r.srcWords k).getD (x + y * b.width) 0

/-- The engine's next step for command `i` completes it: plane `d` gets the tag `t` and at every pixel the
word `out x y`, `MAXR` and `MAXV` the values given, `BUSY` is cleared and `DONE` set, the record is
discarded, and everything else is unchanged: every other field of the state, every other tag, and every byte of
memory outside the words of plane `d` (30_encoding.md R114, 70_reset_and_hazards.md R286). -/
def CompletesBoth (i : Instr) (s : State) (d : PlaneNo) (t : Tag) (out : Nat → Nat → Word)
    (maxr : Word) (maxv : Bool) : Prop :=
  ∃ u, exec i s = .next u ∧
    u = { s with
          mem := u.mem, tags := s.tags.set d.val t d.isLt, maxr := maxr, maxv := maxv,
          inflight := none, done := true } ∧
    (∀ x y, x < s.build.width → y < s.build.height →
      u.planeWord d (x + y * s.build.width) = some (out x y)) ∧
    ∀ addr, addr < planeBase d ∨ planeBase d + 4 * s.build.size ≤ addr →
      u.mem.read addr = s.mem.read addr

/-- As `CompletesBoth`, with `MAXR` and `MAXV` unchanged. -/
def CompletesWith (i : Instr) (s : State) (d : PlaneNo) (t : Tag) (out : Nat → Nat → Word) : Prop :=
  CompletesBoth i s d t out s.maxr s.maxv

/-- `m` is the maximum over the frame of `score`: no pixel exceeds it and one reaches it. -/
def IsFrameMax (b : Build) (score : Nat → Nat → Int) (m : Int) : Prop :=
  (∀ x y, x < b.width → y < b.height → score x y ≤ m) ∧
    ∃ x y, x < b.width ∧ y < b.height ∧ score x y = m

/-- The band of size `k`, as an inequality of coordinates (40_window_engine.md R125). -/
def InBand (b : Build) (k x y : Nat) : Prop := k ≤ x ∧ x + k < b.width ∧ k ≤ y ∧ y + k < b.height

/-- Two states agree but for the planes in `scratch` (and the data of the last read). -/
def AgreeOutside (scratch : List PlaneNo) (s t : State) : Prop :=
  t = { s with mem := t.mem, tags := t.tags, rdata := t.rdata } ∧
    ∀ p, p ∉ scratch → t.tag p = s.tag p ∧ ∀ i < s.build.size, t.planeWord p i = s.planeWord p i

/-- A machine ready to take a command: idle, no error, legal build (60_exceptions.md R250). -/
def State.Ready (s : State) : Prop := s.build.legal = true ∧ s.inflight = none ∧ s.err = false

/-- Every word of plane `p` is written. -/
def State.Written (s : State) (p : PlaneNo) : Prop := ∀ i < s.build.size, (s.planeWord p i).isSome = true

end Sys2Proof.Machine
end

