-- ==== Sys2Proof/Certificates/Slice0/Obligations.lean ====
section
/-!
DEFINITION. Certificates/Slice0/Obligations.lean: the statements about the machine. Each docstring names the rule of
spec/ it formalises; a statement about commands covers every form of the commands it names.
-/

open Sys2Proof
open Sys2Proof.Machine

/-! ### Encoding (30_encoding.md) -/

/-- R117: the six example words decode to the commands written beside them, and those encode to the words. -/
def Obligations.EncodingExamplesDecode : Prop :=
  ∀ e ∈ [((0x00000101 : Word), Instr.togray 1 0), (0x00001212, .gauss3 2 1), (0x00043540, .product 5 3 4),
      (0x00654741, .response 7 4 5 6), (0x00007042, .globalMax 7), (0x00000151, .harris 1 0)],
    decode e.1 = .ok e.2 ∧ encode e.2 = e.1

/-- R91, R92, R95: decoding the word of a command gives the command back, every operand included. -/
def Obligations.DecodeInvertsEncode : Prop := ∀ i : Instr, decode (encode i) = .ok i

/-- R91, R92: a word that decodes is exactly the word of its command: no bit of it is dropped. -/
def Obligations.EncodeInvertsDecode : Prop := ∀ (w : Word) (i : Instr), decode w = .ok i → encode i = w

/-- R94: a word decodes to a command exactly if it matches a row of the opcode table, and then the row is
the command's own. -/
def Obligations.OpcodeTableDecidesCommands : Prop :=
  ∀ w : Word,
    (∀ i, decode w = .ok i →
      ∃ row ∈ opcodeTable, row.mnemonic = i.mnemonic ∧ w &&& row.mask = row.pattern) ∧
    (∀ row ∈ opcodeTable, w &&& row.mask = row.pattern → ∃ i, decode w = .ok i ∧ i.mnemonic = row.mnemonic)

/-- R96: an opcode outside the map raises ILLEGAL_OPCODE, `0x00` among them. -/
def Obligations.UnlistedOpcodesAreIllegal : Prop :=
  (∀ (w : Word) (s : State),
    bits w 7 0 ∉ [0x10, 0x11, 0x01, 0x02, 0x08, 0x12, 0x13, 0x20, 0x21, 0x22, 0x30, 0x31, 0x32, 0x40,
      0x41, 0x42, 0x43, 0x44, 0x50, 0x51] →
    s.err = false → s.inflight = none →
    writeCmd w s = .next { s with done := false, err := true, errcode := .illegalOpcode, errinfo := w }) ∧
  ∀ s : State, s.err = false → s.inflight = none →
    writeCmd 0 s = .next { s with done := false, err := true, errcode := .illegalOpcode, errinfo := 0 }

/-- R99 to R106: decoding an encoded element gives the element, for every type; and what is encoded has 0
outside the fields of its type (for S16 the sign extension). -/
def Obligations.ElementCodecsRoundTrip : Prop :=
  (∀ e, decodeRgb (encodeRgb e) = e ∧ bits (encodeRgb e) 31 24 = 0) ∧
  (∀ v, decodeU8 (encodeU8 v) = v ∧ (encodeU8 v).toNat = v.toNat) ∧
  (∀ e, decodeDir (encodeDir e) = e ∧ bits (encodeDir e) 31 10 = 0) ∧
  (∀ v, decodeS16 (encodeS16 v) = v ∧ (encodeS16 v).toInt = v.toInt) ∧
  (∀ v, decodeU16 (encodeU16 v) = v ∧ (encodeU16 v).toNat = v.toNat) ∧
  (∀ v, decodeS32 (encodeS32 v) = v) ∧
  (∀ e, decodeWPix (encodeWPix e) = e ∧ bits (encodeWPix e) 31 18 = 0)

/-! ### Acceptance and errors (30_encoding.md R98, 60_exceptions.md) -/

/-- R98: the decode procedure, in its order, on an engine that is neither busy nor in error: an opcode
outside the table; a reserved or unused field that is not 0; `ARG[31:5]` of CONV3 and CONV5; the plane
range; the source tags; NO_MAX for DECIDE; else acceptance. The model's own clause (R30): acceptance of a
source with an unwritten word is a fault. -/
def Obligations.DecodeProcedureOfCommandWords : Prop :=
  ∀ (s : State) (w : Word), s.err = false → s.inflight = none →
    let s' := { s with done := false }
    (∀ code, (∀ i, decode w ≠ .ok i) →
      code = (if ∃ row ∈ opcodeTable, bits w 7 0 = bits row.pattern 7 0 then ErrCode.reservedField
        else .illegalOpcode) →
      writeCmd w s = .next { s' with err := true, errcode := code, errinfo := w }) ∧
    ∀ i, decode w = .ok i →
      (i.argOk s.arg = false →
        writeCmd w s = .next { s' with err := true, errcode := .reservedField, errinfo := w }) ∧
      (i.argOk s.arg = true → i.wellFormed s.build = false →
        writeCmd w s = .next { s' with err := true, errcode := .planeRange, errinfo := w }) ∧
      (i.argOk s.arg = true → i.wellFormed s.build = true →
        (∃ p ∈ i.sources, p.2.ok (s.tag p.1) = false) →
        writeCmd w s = .next { s' with err := true, errcode := .typeMismatch, errinfo := w }) ∧
      (i.argOk s.arg = true → i.wellFormed s.build = true → (∀ p ∈ i.sources, p.2.ok (s.tag p.1) = true) →
        (i.needsMax = true ∧ s.maxv = false →
          writeCmd w s = .next { s' with err := true, errcode := .noMax, errinfo := w }) ∧
        ((i.needsMax = true → s.maxv = true) →
          (∀ fs, List.Forall₂ (SnapshotOf s) i.sources fs →
            writeCmd w s = .next { s' with
              inflight := some
                { instr := i, arg := s.arg, margin := s.margin, kcoef := s.kcoef, maxr := s.maxr,
                  maxv := s.maxv, sources := fs } }) ∧
          ((∃ p ∈ i.sources, ∃ k < s.build.size, s.planeWord p.1 k = none) →
            writeCmd w s = .fault .unwrittenSource)))

/-- R37, R113, R250: every command whose conditions hold is accepted by an idle engine: the record latches
the operands and the source snapshots, and nothing else changes. -/
def Obligations.LegalCommandsAreAccepted : Prop :=
  ∀ (i : Instr) (s : State) (fs : List Snapshot),
    s.inflight = none → i.wellFormed s.build = true → i.argOk s.arg = true →
    (∀ p ∈ i.sources, p.2.ok (s.tag p.1) = true) → (i.needsMax = true → s.maxv = true) →
    List.Forall₂ (SnapshotOf s) i.sources fs →
    exec i s = .next { s with
      inflight := some
        { instr := i, arg := s.arg, margin := s.margin, kcoef := s.kcoef, maxr := s.maxr, maxv := s.maxv,
          sources := fs } }

/-- R95, R110: the types each command reads, as the opcode map lists them: a command whose source has another
tag, NONE included, raises TYPE_MISMATCH and nothing else happens. -/
def Obligations.WrongSourceTypesMismatch : Prop :=
  ∀ (s : State) (d a b c : PlaneNo), s.inflight = none →
    (∀ p ∈ [d, a, b, c], p.val < s.build.nplanes) →
    let bad := fun i : Instr => i.argOk s.arg = true → exec i s = .next
      { s with err := true, errcode := .typeMismatch, errinfo := encode i }
    (s.tag a ≠ .u8 → ∀ i ∈ [Instr.conv3 d a, .conv5 d a, .torgb d a, .gauss3 d a, .gauss5 d a, .sobel d a,
      .sobelx d a, .sobely d a, .threshold d a, .borderZero d a], bad i) ∧
    (s.tag a ≠ .rgb → ∀ i ∈ [Instr.togray d a, .canny d a, .harris d a], bad i) ∧
    (s.tag a = .none → bad (.copy d a)) ∧
    (s.tag a ≠ .dir → bad (.edgeNms d a)) ∧
    (s.tag a ≠ .s32 → bad (.globalMax a) ∧ bad (.classify d a)) ∧
    (s.tag a ≠ .wpix → bad (.cornerNms d a)) ∧
    (s.tag a ≠ .s16 ∨ s.tag b ≠ .s16 → bad (.product d a b)) ∧
    (s.tag a ≠ .u16 ∨ s.tag b ≠ .u16 ∨ s.tag c ≠ .u16 → bad (.response d a b c))

/-- R250, through the port: a word written to `CMD` is dropped after an error, an OVERRUN while busy, and
else decoded with `DONE` cleared. -/
def Obligations.CommandAcceptanceRule : Prop :=
  ∀ (s : State) (w : Word) (rest : List Event), s.build.legal = true →
    s.agenda = .write 0x000 4 w :: rest →
    let s' := { s with agenda := rest, rdata := none }
    (s.err = true → step s = .next s') ∧
    (s.err = false → s.busy = true →
      step s = .next { s' with err := true, errcode := .overrun, errinfo := w }) ∧
    (s.err = false → s.busy = false → step s =
      match decode w with
      | .ok i => exec i { s' with done := false }
      | .error e => .next { s' with done := false, err := true, errcode := e.errCode, errinfo := w })

/-- R253: only a word written to `CMD` raises an error, and the error entry changes nothing but the error
record (and `DONE`, which decoding clears): the word is recorded whole. -/
def Obligations.ErrorEntryChangesOnlyTheErrorRecord : Prop :=
  ∀ s t : State, step s = .next t → s.err = false → t.err = true →
    ∃ w rest, s.agenda = .write 0x000 4 w :: rest ∧
      t = { s with
            err := true, errcode := t.errcode, errinfo := w, done := s.done && s.busy, agenda := rest,
            rdata := none } ∧
      (t.errcode = .overrun ↔ s.busy = true) ∧ t.errcode ≠ .none

/-- R257: while `ERR = 1` the error record keeps the first error, until a reset. -/
def Obligations.ErrorsDoNotNest : Prop :=
  ∀ s t : State, step s = .next t → s.err = true →
    (t.err = true ∧ t.errcode = s.errcode ∧ t.errinfo = s.errinfo) ∨
    (∃ rest, s.agenda = .hardReset :: rest) ∨
    ∃ v rest, s.agenda = .write 0x00C 4 v :: rest ∧ bits v 0 0 = 1

/-- R255: an OVERRUN does not disturb the command in flight: its completion writes what it would have
written, `STATUS` then reads `BUSY = 0, DONE = 1, ERR = 1, ERRCODE = 1` (and `MAXV`), and further commands
are dropped. -/
def Obligations.OverrunDoesNotDisturb : Prop :=
  ∀ (s t : State) (r : InFlight) (w : Word), s.build.legal = true → s.err = false → s.inflight = some r →
    exec r.instr { s with rdata := none } = .next t →
    ∀ rest, s.agenda = .write 0x000 4 w :: .engine :: rest →
      let u := { t with err := true, errcode := ErrCode.overrun, errinfo := w, agenda := rest }
      Host.Core.run core 2 s = .next u ∧
      u.statusWord = BitVec.ofNat 32 (0x106 + 8 * flag t.maxv) ∧
      ∀ v rest', step { u with agenda := .write 0x000 4 v :: rest' } =
        .next { u with agenda := rest', rdata := none }

/-- R251: an accepted command cannot fail: it completes at the engine's next turn, whatever the state; and
no step ends it but its completion and a reset. -/
def Obligations.AcceptedCommandsCannotFail : Prop :=
  (∀ (s : State) (r : InFlight), s.inflight = some r →
    ∃ t, engineTurn s = .next t ∧ t.inflight = none ∧ t.done = true) ∧
  ∀ (s t : State) (r : InFlight), s.inflight = some r → step s = .next t →
    t.inflight = some r ∨
    (t.inflight = none ∧ t.done = true ∧ ∃ rest, exec r.instr (s.advance rest) = .next t) ∨
    (∃ rest, s.agenda = .hardReset :: rest) ∨
    ∃ v rest, s.agenda = .write 0x00C 4 v :: rest ∧ bits v 0 0 = 1

/-! ### What each command computes (files 40 to 46)

Each statement says that the command in flight completes, for every state and every operand, with the words of its
rule at every pixel of the destination plane and nothing else changed (`CompletesWith`). -/

/-- CONV3, CONV5 (R126, R127): the exact sum of kernel and window, shifted toward minus infinity by
`ARG[4:0]`, as a 32-bit word. -/
def Obligations.ConvolutionsComplete : Prop :=
  ∀ (s : State) (r : InFlight) (d a : PlaneNo), s.inflight = some r →
    let src := fun x y => (bits (r.pixel s.build 0 x y) 7 0 : Int)
    let sum := fun k x y => ∑ i ∈ Finset.range k, ∑ j ∈ Finset.range k,
      (r.kcoef[k * i + j]?.getD 0).toInt * window k 0 src x y i j
    (r.instr = .conv3 d a → CompletesWith (.conv3 d a) s d .s32 fun x y =>
      BitVec.ofInt 32 (sum 3 x y / 2 ^ bits r.arg 4 0)) ∧
    (r.instr = .conv5 d a → CompletesWith (.conv5 d a) s d .s32 fun x y =>
      BitVec.ofInt 32 (sum 5 x y / 2 ^ bits r.arg 4 0))

/-- TOGRAY (R140): the luma `(77·R + 150·G + 28·B) >> 8`, truncated. -/
def Obligations.TograyCompletes : Prop :=
  ∀ (s : State) (r : InFlight) (d a : PlaneNo), s.inflight = some r → r.instr = .togray d a →
    CompletesWith (.togray d a) s d .u8 fun x y =>
      let w := r.pixel s.build 0 x y
      BitVec.ofNat 32 ((77 * bits w 7 0 + 150 * bits w 15 8 + 28 * bits w 23 16) / 256)

/-- TORGB (R141): the sample in three equal channels. -/
def Obligations.TorgbCompletes : Prop :=
  ∀ (s : State) (r : InFlight) (d a : PlaneNo), s.inflight = some r → r.instr = .torgb d a →
    CompletesWith (.torgb d a) s d .rgb fun x y =>
      let v := bits (r.pixel s.build 0 x y) 7 0
      BitVec.ofNat 32 (v + 2 ^ 8 * v + 2 ^ 16 * v)

/-- COPY (R142): all 32 bits of every word, verbatim, and the tag. -/
def Obligations.CopyCompletes : Prop :=
  ∀ (s : State) (r : InFlight) (d a : PlaneNo) (f : Snapshot), s.inflight = some r → r.instr = .copy d a →
    r.sources = [f] → f.words.length = s.build.size →
    CompletesWith (.copy d a) s d f.tag (fun x y => r.pixel s.build 0 x y) ∧
    ∃ t, exec (.copy d a) s = .next t ∧ ∀ i < s.build.size, t.planeWord d i = f.words[i]?

/-- GAUSS3, GAUSS5 (R150, R151): the binomial kernels, divided by 16 and by 256. -/
def Obligations.GaussiansComplete : Prop :=
  ∀ (s : State) (r : InFlight) (d a : PlaneNo), s.inflight = some r →
    let src := fun x y => bits (r.pixel s.build 0 x y) 7 0
    (r.instr = .gauss3 d a → CompletesWith (.gauss3 d a) s d .u8 fun x y =>
      let w := window 3 0 src x y
      BitVec.ofNat 32 ((w 0 0 + 2 * w 0 1 + w 0 2 + 2 * w 1 0 + 4 * w 1 1 + 2 * w 1 2 +
        w 2 0 + 2 * w 2 1 + w 2 2) / 16)) ∧
    (r.instr = .gauss5 d a → CompletesWith (.gauss5 d a) s d .u8 fun x y =>
      let w := window 5 0 src x y
      let row := fun i => w i 0 + 4 * w i 1 + 6 * w i 2 + 4 * w i 3 + w i 4
      BitVec.ofNat 32 ((row 0 + 4 * row 1 + 6 * row 2 + 4 * row 3 + row 4) / 256))

/-- SOBELX, SOBELY (R160, R164, R165): the raw gradients over the whole frame, sign-extended. -/
def Obligations.RawGradientsComplete : Prop :=
  ∀ (s : State) (r : InFlight) (d a : PlaneNo), s.inflight = some r →
    let src := fun x y => (bits (r.pixel s.build 0 x y) 7 0 : Int)
    (r.instr = .sobelx d a → CompletesWith (.sobelx d a) s d .s16 fun x y =>
      let w := window 3 0 src x y
      BitVec.ofInt 32 ((w 0 0 + 2 * w 1 0 + w 2 0) - (w 0 2 + 2 * w 1 2 + w 2 2))) ∧
    (r.instr = .sobely d a → CompletesWith (.sobely d a) s d .s16 fun x y =>
      let w := window 3 0 src x y
      BitVec.ofInt 32 ((w 0 0 + 2 * w 0 1 + w 0 2) - (w 2 0 + 2 * w 2 1 + w 2 2)))

/-- SOBEL (R163): magnitude inside the band of size 3 and 0 outside it; the direction everywhere. -/
def Obligations.SobelCompletes : Prop :=
  ∀ (s : State) (r : InFlight) (d a : PlaneNo), s.inflight = some r → r.instr = .sobel d a →
    let src := fun x y => (bits (r.pixel s.build 0 x y) 7 0 : Int)
    let gx := fun x y => let w := window 3 0 src x y
      (w 0 0 + 2 * w 1 0 + w 2 0) - (w 0 2 + 2 * w 1 2 + w 2 2)
    let gy := fun x y => let w := window 3 0 src x y
      (w 0 0 + 2 * w 0 1 + w 0 2) - (w 2 0 + 2 * w 2 1 + w 2 2)
    ∃ out, CompletesWith (.sobel d a) s d .dir out ∧
      ∀ x y, bits (out x y) 9 8 = (direction (gx x y) (gy x y)).code.toNat ∧ bits (out x y) 31 10 = 0 ∧
        (InBand s.build 3 x y → bits (out x y) 7 0 = magnitude (gx x y) (gy x y)) ∧
        (¬ InBand s.build 3 x y → bits (out x y) 7 0 = 0)

/-- EDGE_NMS (R180, R181): the centre magnitude unless one of the two neighbours of its direction exceeds
it; 0 outside the band. -/
def Obligations.EdgeNmsCompletes : Prop :=
  ∀ (s : State) (r : InFlight) (d a : PlaneNo), s.inflight = some r → r.instr = .edgeNms d a →
    let mag := fun x y => bits (r.pixel s.build 0 x y) 7 0
    let dir := fun x y => bits (r.pixel s.build 0 x y) 9 8
    ∃ out, CompletesWith (.edgeNms d a) s d .u8 out ∧
      ∀ x y,
        (¬ InBand s.build 3 x y → out x y = 0) ∧
        (InBand s.build 3 x y →
          let n1 := if dir (x - 1) (y - 1) = 0 then mag (x - 2) (y - 1)
            else if dir (x - 1) (y - 1) = 1 then mag (x - 2) (y - 2)
            else if dir (x - 1) (y - 1) = 2 then mag (x - 1) (y - 2) else mag (x - 2) y
          let n2 := if dir (x - 1) (y - 1) = 0 then mag x (y - 1)
            else if dir (x - 1) (y - 1) = 1 then mag x y
            else if dir (x - 1) (y - 1) = 2 then mag (x - 1) y else mag x (y - 2)
          (out x y).toNat =
            if mag (x - 1) (y - 1) < n1 ∨ mag (x - 1) (y - 1) < n2 then 0 else mag (x - 1) (y - 1))

/-- THRESHOLD (R183): 255 where the sample is at least the signed `ARG`, else 0. -/
def Obligations.ThresholdCompletes : Prop :=
  ∀ (s : State) (r : InFlight) (d a : PlaneNo), s.inflight = some r → r.instr = .threshold d a →
    CompletesWith (.threshold d a) s d .u8 fun x y =>
      if r.arg.toInt ≤ bits (r.pixel s.build 0 x y) 7 0 then 255 else 0

/-- BORDER_ZERO (R185, R186): 0 within the margin of any edge, compared without wrapping, and the sample
elsewhere. -/
def Obligations.BorderZeroCompletes : Prop :=
  ∀ (s : State) (r : InFlight) (d a : PlaneNo), s.inflight = some r → r.instr = .borderZero d a →
    let m := r.margin.toNat
    CompletesWith (.borderZero d a) s d .u8 fun x y =>
      if x < m ∨ s.build.width ≤ x + m ∨ y < m ∨ s.build.height ≤ y + m then 0
      else BitVec.ofNat 32 (bits (r.pixel s.build 0 x y) 7 0)

/-- PRODUCT (R201): the exact signed product modulo 65536. -/
def Obligations.ProductCompletes : Prop :=
  ∀ (s : State) (r : InFlight) (d a b : PlaneNo), s.inflight = some r → r.instr = .product d a b →
    CompletesWith (.product d a b) s d .u16 fun x y =>
      BitVec.ofInt 32
        (((r.pixel s.build 0 x y).setWidth 16).toInt * ((r.pixel s.build 1 x y).setWidth 16).toInt % 65536)

/-- RESPONSE (R204, R205): `floor(det - k·trace²)` with `k = 2621/65536`, as a 32-bit word. -/
def Obligations.ResponseCompletes : Prop :=
  ∀ (s : State) (r : InFlight) (d a b c : PlaneNo), s.inflight = some r → r.instr = .response d a b c →
    CompletesWith (.response d a b c) s d .s32 fun x y =>
      let ixx := (bits (r.pixel s.build 0 x y) 15 0 : Rat)
      let iyy := (bits (r.pixel s.build 1 x y) 15 0 : Rat)
      let ixy := (bits (r.pixel s.build 2 x y) 15 0 : Rat)
      BitVec.ofInt 32 (ixx * iyy - ixy * ixy - 2621 / 65536 * (ixx + iyy) ^ 2).floor

/-- GLOBAL_MAX (R210): the true maximum of the frame's scores in `MAXR`, `MAXV` set; no plane and nothing else
changes. -/
def Obligations.GlobalMaxCompletes : Prop :=
  ∀ (s : State) (r : InFlight) (a : PlaneNo), s.build.legal = true → s.inflight = some r →
    r.instr = .globalMax a →
    ∃ m : Word, IsFrameMax s.build (fun x y => (r.pixel s.build 0 x y).toInt) m.toInt ∧
      exec (.globalMax a) s = .next { s with maxr := m, maxv := true, inflight := none, done := true }

/-- DECIDE (R213, R214): the edge test first, then the corner test against `MAXR - ARG`, then flat. -/
def Obligations.DecideCompletes : Prop :=
  ∀ (s : State) (r : InFlight) (d a : PlaneNo), s.inflight = some r → r.instr = .classify d a →
    CompletesWith (.classify d a) s d .wpix fun x y =>
      let v := r.pixel s.build 0 x y
      if v.toInt < 42 then BitVec.ofInt 32 (2 ^ 16 + (-v).toInt / 2 ^ 8 % 2 ^ 16)
      else if r.maxr.toInt - r.arg.toInt < v.toInt then BitVec.ofInt 32 (2 ^ 17 + v.toInt / 2 ^ 8 % 2 ^ 16)
      else 0

/-- CORNER_NMS (R218, R219): inside the band of size 5 a corner survives exactly if no corner of its window is
larger, and every other pixel passes through; `(0, flat)` outside. -/
def Obligations.CornerNmsCompletes : Prop :=
  ∀ (s : State) (r : InFlight) (d a : PlaneNo), s.inflight = some r → r.instr = .cornerNms d a →
    let value := fun x y => bits (r.pixel s.build 0 x y) 15 0
    let kind := fun x y => bits (r.pixel s.build 0 x y) 17 16
    ∃ out, CompletesWith (.cornerNms d a) s d .wpix out ∧
      ∀ x y,
        (¬ InBand s.build 5 x y → out x y = 0) ∧
        (InBand s.build 5 x y →
          let kept := kind (x - 2) (y - 2) ≠ 2 ∨
            ∀ i j, i < 5 → j < 5 → kind (x - 4 + j) (y - 4 + i) = 2 →
              value (x - 4 + j) (y - 4 + i) ≤ value (x - 2) (y - 2)
          (kept → (out x y).toNat = value (x - 2) (y - 2) + 2 ^ 16 * kind (x - 2) (y - 2)) ∧
          (¬ kept → out x y = 0))

/-- CANNY (R230): the stages applied one after another, as functions of the pixel. -/
def Obligations.CannyCompletes : Prop :=
  ∀ (s : State) (r : InFlight) (d a : PlaneNo), s.inflight = some r → r.instr = .canny d a →
    let b := s.build
    let gray := fun x y => luma (decodeRgb (r.pixel b 0 x y))
    let edges := edgeNmsOut b (sobelOut b (gauss3Out gray))
    CompletesWith (.canny d a) s d .rgb fun x y =>
      encodeRgb (broadcast (borderZeroOut b r.margin.toNat
        (fun x y => thresholdOut r.arg.toInt (edges x y)) x y))

/-- HARRIS (R234, R236): the stages applied one after another; `MAXR` gets the maximum of the whole score
frame, and the classification uses it. -/
def Obligations.HarrisCompletes : Prop :=
  ∀ (s : State) (r : InFlight) (d a : PlaneNo), s.build.legal = true → s.inflight = some r →
    r.instr = .harris d a →
    let b := s.build
    let blur := gauss3Out fun x y => luma (decodeRgb (r.pixel b 0 x y))
    let gx := sobelxOut blur
    let gy := sobelyOut blur
    let score := fun x y => responseOut (productOut (gx x y) (gx x y)) (productOut (gy x y) (gy x y))
      (productOut (gx x y) (gy x y))
    ∃ m : Word, IsFrameMax b (fun x y => (score x y).toInt) m.toInt ∧
      CompletesBoth (.harris d a) s d .wpix
        (fun x y => encodeWPix (cornerNmsOut b
          (fun x y => classifyOut (score x y).toInt m.toInt r.arg.toInt) x y)) m true

/-! ### Arithmetic of the rules -/

/-- R16: `asr` is the floor of the quotient by `2^n`, `tdiv` the quotient truncated toward zero, and `isqrt n` the
largest integer whose square is at most `n`. -/
def Obligations.IntegerPrimitives : Prop :=
  (∀ (v : Int) (n : Nat), asr v n = ((v : Rat) / 2 ^ n).floor) ∧
  (∀ a b : Int, b ≠ 0 → tdiv a b = a.sign * b.sign * ((a.natAbs / b.natAbs : Nat) : Int)) ∧
  ∀ n m : Nat, m * m ≤ n ↔ m ≤ isqrt n

/-- R161: the magnitude is the square root rounded to the nearest integer, saturated to 255; and the root of
an integer is never halfway between two integers. -/
def Obligations.MagnitudeIsRoundedRoot : Prop :=
  (∀ gx gy : Int, (magnitude gx gy : Int) = min (round (Real.sqrt ((gx : ℝ) ^ 2 + (gy : ℝ) ^ 2))) 255) ∧
  ∀ n m : Nat, Real.sqrt n ≠ m + 1 / 2

/-- R162: the direction buckets of `t = tdiv(256·gy, gx)`, and 90° for `gx = 0`; the boundary values. -/
def Obligations.DirectionBuckets : Prop :=
  (∀ gy, direction 0 gy = .deg90) ∧
  (∀ gx gy : Int, gx ≠ 0 →
    let t := tdiv (gy * 256) gx
    (direction gx gy = .deg135 ↔ -618 < t ∧ t ≤ -106) ∧ (direction gx gy = .deg0 ↔ -106 < t ∧ t ≤ 106) ∧
    (direction gx gy = .deg45 ↔ 106 < t ∧ t < 618) ∧ (direction gx gy = .deg90 ↔ t ≤ -618 ∨ 618 ≤ t)) ∧
  [-618, -617, -106, -105, 106, 107, 617, 618].map directionOfSlope =
    [.deg90, .deg135, .deg135, .deg0, .deg0, .deg45, .deg45, .deg90]

/-- R215: with the maximum fixed, the corners DECIDE finds are `R ≥ 42` and `R > mx - thresUp`, so raising
`thresUp` never removes one. -/
def Obligations.RaisingThresUpKeepsCorners : Prop :=
  ∀ score mx t t' : Int,
    ((classifyOut score mx t).kind = .corner ↔ 42 ≤ score ∧ mx - t < score) ∧
    (t ≤ t' → (classifyOut score mx t).kind = .corner → (classifyOut score mx t').kind = .corner)

/-- R220: applying CORNER_NMS twice is applying it once, shifted by two pixels, with the band re-zeroed; so it is
not idempotent. -/
def Obligations.CornerNmsTwiceIsOnceShifted : Prop :=
  (∀ (b : Build) (src : Nat → Nat → WPixel) (x y : Nat),
    (InBand b 5 x y →
      cornerNmsOut b (cornerNmsOut b src) x y = cornerNmsOut b src (x - 2) (y - 2)) ∧
    (¬ InBand b 5 x y → cornerNmsOut b (cornerNmsOut b src) x y = ⟨0, .flat⟩)) ∧
  ∃ (b : Build) (src : Nat → Nat → WPixel) (x y : Nat), b.legal = true ∧ InBand b 5 x y ∧
    cornerNmsOut b (cornerNmsOut b src) x y ≠ cornerNmsOut b src x y

/-- R121: the line buffer holds exactly the rows R121 names; R123, R124: the step mechanism produces exactly the
window at every step. -/
def Obligations.StepMechanismProducesTheWindow : Prop :=
  ∀ (α : Type) (b : Build) (k : Nat) (zero : α) (src : Nat → Nat → α) (x y i : Nat),
    0 < k → i < k → x < b.width → y < b.height →
    let e := Engine.after b k zero src (x + y * b.width + 1)
    (∀ j < k, e.win i j = window k zero src x y i j) ∧
    (∀ x' ≤ x, e.lb i x' = if k - 1 ≤ y + i then src x' (y + i - (k - 1)) else zero) ∧
    ∀ x', x < x' → x' < b.width → e.lb i x' = if k ≤ y + i then src x' (y + i - k) else zero

/-! ### Composite commands (46_pipelines.md) -/

/-- R231: CANNY leaves its destination exactly as the sequence of its stages over scratch planes would, and
differs from that sequence only in the scratch planes, which it leaves untouched. The host issues each command
and waits (agenda and wait: log entries 2 and 10). -/
def Obligations.CannyIsItsSequence : Prop :=
  ∀ (s : State) (d a p1 p2 p3 p4 p5 p6 : PlaneNo),
    s.Ready → s.tag a = .rgb → s.Written a →
    (∀ p ∈ [d, a, p1, p2, p3, p4, p5, p6], p.val < s.build.nplanes) →
    [p1, p2, p3, p4, p5, p6].Nodup → a ∉ [p1, p2, p3, p4, p5, p6] → d ∉ [p1, p2, p3, p4, p5, p6] →
    let lines := fun is : List Instr => assemble s.build (is.map fun i => .command i none)
    ∃ t u,
      Host.Core.run core 3 { s with agenda := lines [.canny d a] } = .next t ∧
      Host.Core.run core 21 { s with agenda := lines [.togray p1 a, .gauss3 p2 p1, .sobel p3 p2,
        .edgeNms p4 p3, .threshold p5 p4, .borderZero p6 p5, .torgb d p6] } = .next u ∧
      AgreeOutside [p1, p2, p3, p4, p5, p6] t u ∧
      ∀ p ∈ [p1, p2, p3, p4, p5, p6], t.tag p = s.tag p ∧
        ∀ i < s.build.size, t.planeWord p i = s.planeWord p i

/-- R235: HARRIS leaves its destination, `MAXR` and `MAXV` exactly as the sequence of its stages over scratch
planes would, and differs from that sequence only in the scratch planes (agenda and wait: log
entries 2 and 10). -/
def Obligations.HarrisIsItsSequence : Prop :=
  ∀ (s : State) (d a p1 p2 p3 p4 p5 p6 p7 p8 p9 : PlaneNo),
    s.Ready → s.tag a = .rgb → s.Written a →
    (∀ p ∈ [d, a, p1, p2, p3, p4, p5, p6, p7, p8, p9], p.val < s.build.nplanes) →
    [p1, p2, p3, p4, p5, p6, p7, p8, p9].Nodup → a ∉ [p1, p2, p3, p4, p5, p6, p7, p8, p9] →
    d ∉ [p1, p2, p3, p4, p5, p6, p7, p8, p9] →
    let lines := fun is : List Instr => assemble s.build (is.map fun i => .command i none)
    ∃ t u,
      Host.Core.run core 3 { s with agenda := lines [.harris d a] } = .next t ∧
      Host.Core.run core 33 { s with agenda := lines [.togray p1 a, .gauss3 p2 p1, .sobelx p3 p2,
        .sobely p4 p2, .product p5 p3 p3, .product p6 p4 p4, .product p7 p3 p4, .response p8 p5 p6 p7,
        .globalMax p8, .classify p9 p8, .cornerNms d p9] } = .next u ∧
      AgreeOutside [p1, p2, p3, p4, p5, p6, p7, p8, p9] t u

/-- R232: on an all-black frame CANNY gives an all-zero output for every threshold of at least 1 and every
margin, and for a threshold of at most 0 the output is 255 in every channel inside the margin band and 0
outside. -/
def Obligations.CannyOfBlackFrame : Prop :=
  ∀ (s : State) (r : InFlight) (d a : PlaneNo), s.inflight = some r → r.instr = .canny d a →
    (∀ x y, bits (r.pixel s.build 0 x y) 23 0 = 0) →
    (1 ≤ r.arg.toInt → CompletesWith (.canny d a) s d .rgb fun _ _ => 0) ∧
    (r.arg.toInt ≤ 0 → CompletesWith (.canny d a) s d .rgb fun x y =>
      if x < r.margin.toNat ∨ s.build.width ≤ x + r.margin.toNat ∨ y < r.margin.toNat ∨
        s.build.height ≤ y + r.margin.toNat then 0 else 0x00FFFFFF)

/-- R221, R237: on an all-black frame HARRIS gives `(0, edge)` inside the band of size 5 and `(0, flat)`
elsewhere, and `MAXR = 0`, for every threshold margin. -/
def Obligations.HarrisOfBlackFrame : Prop :=
  ∀ (s : State) (r : InFlight) (d a : PlaneNo), s.inflight = some r → r.instr = .harris d a →
    (∀ x y, bits (r.pixel s.build 0 x y) 23 0 = 0) →
    CompletesBoth (.harris d a) s d .wpix
      (fun x y => if 5 ≤ x ∧ x + 5 < s.build.width ∧ 5 ≤ y ∧ y + 5 < s.build.height then 0x00010000 else 0)
      0 true

/-! ### Reset and registers (10_state.md, 70_reset_and_hazards.md) -/

/-- R280: hard reset puts a build in the state of R40, first column: idle, no error, no maximum, `MARGIN` 5,
every other register 0, every tag NONE, every plane word unwritten (a read of one is a fault in the model), no
command in flight; what the host does next stands unchanged on the agenda (the model's choice, log entry 2). -/
def Obligations.HardResetState : Prop :=
  ∀ (s : State) (rest : List Event), s.build.legal = true → s.agenda = .hardReset :: rest →
    ∃ t, step s = .next t ∧ t.build = s.build ∧ t.statusWord = 0 ∧ t.err = false ∧ t.arg = 0 ∧
      t.margin = 5 ∧ t.maxr = 0 ∧ t.errinfo = 0 ∧ (∀ i : Fin 25, t.kcoef[i] = 0) ∧
      (∀ p, t.tag p = .none) ∧ (∀ p i, t.planeWord p i = none) ∧ t.inflight = none ∧ t.agenda = rest ∧
      ∀ (p : PlaneNo) (i : Nat), p.val < s.build.nplanes → i < s.build.size →
        step { t with agenda := [.read (BitVec.ofNat 32 (planeAddr p i)) 4] } = .fault .unwrittenRead

/-- R28, R281: `CTRL` reads 0, and a write with bit 0 = 0 has no effect, whatever its other bits. A write with
bit 0 = 1 is the soft reset: every register to its reset value, every tag NONE, the command in flight aborted
with its destination unwritten, and every other plane word kept. -/
def Obligations.CtrlWritesSoftReset : Prop :=
  ∀ (s : State) (v : Word) (rest : List Event), s.build.legal = true →
    step { s with agenda := .read 0x00C 4 :: rest } = .next { s with agenda := rest, rdata := some 0 } ∧
    (bits v 0 0 = 0 → step { s with agenda := .write 0x00C 4 v :: rest } =
      .next { s with agenda := rest, rdata := none }) ∧
    (bits v 0 0 = 1 → ∃ t, step { s with agenda := .write 0x00C 4 v :: rest } = .next t ∧
      t = { State.resetOf s.build with mem := t.mem, agenda := rest } ∧
      (∀ d, (s.inflight.bind fun r => r.instr.dst?) = some d →
        ∀ i < s.build.size, t.planeWord d i = none) ∧
      ∀ p i, p.val < s.build.nplanes → i < s.build.size →
        (s.inflight.bind fun r => r.instr.dst?) ≠ some p → t.planeWord p i = s.planeWord p i)

/-- R23: the fields of `STATUS`: BUSY, DONE, ERR, MAXV at bits 0 to 3, ERRCODE at bits 11:8, every other bit
0; a read returns it and a write is ignored. -/
def Obligations.StatusRegister : Prop :=
  ∀ (s : State) (v : Word) (rest : List Event), s.build.legal = true →
    (bits s.statusWord 0 0 = flag s.busy ∧ bits s.statusWord 1 1 = flag s.done ∧
      bits s.statusWord 2 2 = flag s.err ∧ bits s.statusWord 3 3 = flag s.maxv ∧
      bits s.statusWord 7 4 = 0 ∧ bits s.statusWord 11 8 = s.errcode.code ∧
      bits s.statusWord 31 12 = 0) ∧
    step { s with agenda := .read 0x008 4 :: rest } =
      .next { s with agenda := rest, rdata := some s.statusWord } ∧
    step { s with agenda := .write 0x008 4 v :: rest } = .next { s with agenda := rest, rdata := none } ∧
    (State.resetOf s.build).statusWord = 0

/-- R22, R32: `ARG` and `MARGIN` read back the last value written, also while a command is in flight, and the
write changes nothing else, the record of that command included; after reset they read 0 and 5. -/
def Obligations.ArgAndMarginRegisters : Prop :=
  ∀ (s : State) (v : Word) (rest : List Event), s.build.legal = true →
    Host.Core.run core 2 { s with agenda := .write 0x004 4 v :: .read 0x004 4 :: rest } =
      .next { s with arg := v, agenda := rest, rdata := some v } ∧
    Host.Core.run core 2 { s with agenda := .write 0x018 4 v :: .read 0x018 4 :: rest } =
      .next { s with margin := v, agenda := rest, rdata := some v } ∧
    step { State.resetOf s.build with agenda := .read 0x004 4 :: rest } =
      .next { State.resetOf s.build with agenda := rest, rdata := some 0 } ∧
    step { State.resetOf s.build with agenda := .read 0x018 4 :: rest } =
      .next { State.resetOf s.build with agenda := rest, rdata := some 5 }

/-- R31: a read of `PTYPE[p]` returns the code of the plane's tag, whether or not a command is in flight; a write
on an idle block stores the tag of `v[3:0]`, NONE for codes of 8 and more; no word changes; where the build has
no plane `p` the register reads 0 and ignores writes. -/
def Obligations.PtypeRegisters : Prop :=
  ∀ (s : State) (p : PlaneNo) (v : Word) (rest : List Event), s.build.legal = true →
    let addr := BitVec.ofNat 32 (0x200 + 4 * p.val)
    step { s with agenda := .read addr 4 :: rest } =
      .next { s with
        agenda := rest
        rdata := some (if p.val < s.build.nplanes then BitVec.ofNat 32 (s.tag p).code else 0) } ∧
    (s.inflight = none → p.val < s.build.nplanes →
      ∃ t, Host.Core.run core 2 { s with agenda := .write addr 4 v :: .read addr 4 :: rest } = .next t ∧
        t = { s with tags := t.tags, agenda := rest, rdata := t.rdata } ∧
        (∀ q, q ≠ p → t.tag q = s.tag q) ∧
        t.rdata = some (BitVec.ofNat 32 (if bits v 3 0 ≤ 7 then bits v 3 0 else 0)) ∧
        (t.tag p).code = if bits v 3 0 ≤ 7 then bits v 3 0 else 0) ∧
    (s.inflight = none → s.build.nplanes ≤ p.val →
      Host.Core.run core 2 { s with agenda := .write addr 4 v :: .read addr 4 :: rest } =
        .next { s with agenda := rest, rdata := some 0 })

/-- R35: `KCOEF[i]` stores the low 16 bits and reads their sign extension; the offsets behind the file read 0 and
ignore writes; the coefficients are 0 after reset. -/
def Obligations.KcoefRegisters : Prop :=
  ∀ (s : State) (v : Word) (rest : List Event), s.build.legal = true →
    (∀ i : Fin 25,
      let addr := BitVec.ofNat 32 (0x100 + 4 * i.val)
      ∃ t, Host.Core.run core 2 { s with agenda := .write addr 4 v :: .read addr 4 :: rest } = .next t ∧
        t = { s with kcoef := t.kcoef, agenda := rest, rdata := t.rdata } ∧
        t.rdata = some ((v.setWidth 16).signExtend 32) ∧ t.kcoef[i] = v.setWidth 16 ∧
        ∀ j : Fin 25, j ≠ i → t.kcoef[j] = s.kcoef[j]) ∧
    (∀ o, 0x164 ≤ o → o ≤ 0x1FC → o % 4 = 0 →
      Host.Core.run core 2
          { s with agenda := .write (BitVec.ofNat 32 o) 4 v :: .read (BitVec.ofNat 32 o) 4 :: rest } =
        .next { s with agenda := rest, rdata := some 0 }) ∧
    (∀ i : Fin 25, (State.resetOf s.build).kcoef[i] = 0) ∧
    ∀ r : InFlight, r.kcoef = s.kcoef → ∀ k i j : Nat, (h : k * i + j < 25) →
      r.kernel k i j = s.kcoef[k * i + j].toInt

/-- R29: the read-only constant registers, and that a write to one is ignored. With them the other registers a
host cannot set: `MAXR` and `ERRINFO` read what the state holds and ignore writes (R33, R34), and `CMD` reads 0
(R21); all of it whether or not a command is in flight. -/
def Obligations.ConstantRegisters : Prop :=
  ∀ (s : State) (v : Word) (rest : List Event), s.build.legal = true →
    (∀ e ∈ [((0x010 : Word), s.build.width), (0x014, s.build.height), (0x024, 2621), (0x028, 42),
        (0x02C, s.build.nplanes)],
      Host.Core.run core 2 { s with agenda := .write e.1 4 v :: .read e.1 4 :: rest } =
        .next { s with agenda := rest, rdata := some (BitVec.ofNat 32 e.2) }) ∧
    Host.Core.run core 2 { s with agenda := .write 0x01C 4 v :: .read 0x01C 4 :: rest } =
      .next { s with agenda := rest, rdata := some s.maxr } ∧
    Host.Core.run core 2 { s with agenda := .write 0x020 4 v :: .read 0x020 4 :: rest } =
      .next { s with agenda := rest, rdata := some s.errinfo } ∧
    step { s with agenda := .read 0x000 4 :: rest } = .next { s with agenda := rest, rdata := some 0 }

/-! ### The host port (20_memory.md) -/

/-- R63: an aligned address that is no listed register and no backed plane word reads 0 and ignores
writes. -/
def Obligations.UnbackedAddressesReadZero : Prop :=
  ∀ (s : State) (a v : Word) (rest : List Event), s.build.legal = true → bits a 1 0 = 0 →
    a.toNat ∉ [0x000, 0x004, 0x008, 0x00C, 0x010, 0x014, 0x018, 0x01C, 0x020, 0x024, 0x028, 0x02C] →
    (∀ i < 25, a.toNat ≠ 0x100 + 4 * i) → (∀ p < 16, a.toNat ≠ 0x200 + 4 * p) →
    (∀ p i, p < s.build.nplanes → i < s.build.size →
      a.toNat ≠ 0x10000000 + p * 0x01000000 + 4 * i) →
    step { s with agenda := .read a 4 :: rest } = .next { s with agenda := rest, rdata := some 0 } ∧
    step { s with agenda := .write a 4 v :: rest } = .next { s with agenda := rest, rdata := none }

/-- R62, R116: on an idle block `PUT` then `GET` of a pixel returns the value whatever it is, and of the memory
only the word of that pixel changes, at the address of R62. -/
def Obligations.PutThenGetReturnsTheWord : Prop :=
  ∀ (s : State) (p : PlaneNo) (x y : Nat) (v : Int), s.build.legal = true → s.inflight = none →
    Memory.wf s.mem → p.val < s.build.nplanes → x < s.build.width → y < s.build.height →
    ∃ t, Host.Core.run core 2 { s with agenda := assemble s.build [.put p x y v, .get p x y] } = .next t ∧
      t = { s with mem := t.mem, agenda := [], rdata := some (BitVec.ofInt 32 v) } ∧
      ∀ b, b < 0x10000000 + p.val * 0x01000000 + 4 * (x + y * s.build.width) ∨
          0x10000000 + p.val * 0x01000000 + 4 * (x + y * s.build.width) + 4 ≤ b →
        t.mem.read b = s.mem.read b

/-- R66: an access of another size than 4 bytes, or at an address with `addr[1:0] ≠ 0`, is refused. -/
def Obligations.AccessesOutsideTheProtocolAreRefused : Prop :=
  ∀ (s : State) (a v : Word) (size : Nat) (rest : List Event), s.build.legal = true →
    size ≠ 4 ∨ bits a 1 0 ≠ 0 →
    let why := if size ≠ 4 then Refusal.accessSize else .misaligned
    step { s with agenda := .read a size :: rest } = .refused why ∧
    step { s with agenda := .write a size v :: rest } = .refused why

/-- R284: while a command is in flight an access to a plane word, or a write of a `PTYPE` register, is refused;
every other aligned word access goes on. That the absent `PTYPE` registers are refused too is the model's reading
(log entry 6). -/
def Obligations.PlaneAccessesWhileBusyAreRefused : Prop :=
  ∀ (s : State) (a v : Word) (rest : List Event), s.build.legal = true → s.busy = true → bits a 1 0 = 0 →
    let word := ∃ p i, p < s.build.nplanes ∧ i < s.build.size ∧
      a.toNat = 0x10000000 + p * 0x01000000 + 4 * i
    let ptype := ∃ p < 16, a.toNat = 0x200 + 4 * p
    (word → step { s with agenda := .read a 4 :: rest } = .refused .planeAccessWhileBusy ∧
      step { s with agenda := .write a 4 v :: rest } = .refused .planeAccessWhileBusy) ∧
    (ptype → step { s with agenda := .write a 4 v :: rest } = .refused .ptypeWriteWhileBusy) ∧
    (¬ word → SafeStep { s with agenda := .read a 4 :: rest }) ∧
    (¬ word → ¬ ptype → SafeStep { s with agenda := .write a 4 v :: rest })

/-- R67: a read changes nothing but the data the port returns. -/
def Obligations.ReadsHaveNoSideEffect : Prop :=
  ∀ (s t : State) (a : Word) (size : Nat) (rest : List Event), s.agenda = .read a size :: rest →
    step s = .next t → ∃ v, t = { s with agenda := rest, rdata := some v }

/-- R30: the machine faults only where the spec says the model faults: a host read of an unwritten plane word,
or a command whose source snapshot includes one. R62: and on an idle block a host read of a backed plane word
answers with the word if anything has written it, and is that fault if nothing has. -/
def Obligations.FaultsAreUnwrittenWords : Prop :=
  (∀ (s : State) (f : Fault), step s = .fault f →
    (f = .unwrittenRead ∧ ∃ (a : Word) (rest : List Event) (p : PlaneNo) (i : Nat),
      s.agenda = .read a 4 :: rest ∧ p.val < s.build.nplanes ∧ i < s.build.size ∧
      a.toNat = 0x10000000 + p.val * 0x01000000 + 4 * i ∧ s.planeWord p i = none) ∨
    (f = .unwrittenSource ∧ ∃ (w : Word) (rest : List Event) (i : Instr),
      s.agenda = .write 0x000 4 w :: rest ∧ decode w = .ok i ∧
      ∃ p ∈ i.sources, ∃ k < s.build.size, s.planeWord p.1 k = none)) ∧
  ∀ (s : State) (p : PlaneNo) (i : Nat) (a : Word) (rest : List Event), s.build.legal = true →
    s.inflight = none → p.val < s.build.nplanes → i < s.build.size →
    a.toNat = 0x10000000 + p.val * 0x01000000 + 4 * i →
    (∀ w, s.planeWord p i = some w →
      step { s with agenda := .read a 4 :: rest } = .next { s with agenda := rest, rdata := some w }) ∧
    (s.planeWord p i = none → step { s with agenda := .read a 4 :: rest } = .fault .unwrittenRead)

/-! ### Steps -/

/-- R10: an illegal configuration has no behaviour: every step of it is refused; a legal one is as R10 and R11
say. -/
def Obligations.IllegalBuildsAreRefused : Prop :=
  ∀ s : State,
    (s.build.legal = true ↔ 6 ≤ s.build.width ∧ 6 ≤ s.build.height ∧
      s.build.width * s.build.height ≤ 2 ^ 22 ∧ 1 ≤ s.build.nplanes ∧ s.build.nplanes ≤ 16) ∧
    (s.build.legal = false → step s = .refused .illegalBuild)

/-- A step runs the decoded command: when the host writes to `CMD` a word that decodes to a command, on an
idle block with no error, the step is `exec` of that command with the event taken off the agenda, the port
empty and `DONE` cleared. The same holds of the word that `withFetchWord` offers. Agenda, port
data and `withFetchWord` are the model's choice (log entries 2, 3, 4). -/
def Obligations.StepRunsTheDecodedCommand : Prop :=
  (∀ (s : State) (w : Word) (i : Instr) (rest : List Event), s.Ready →
    s.agenda = .write 0x000 4 w :: rest → decode w = .ok i →
    step s = exec i { s with agenda := rest, rdata := none, done := false }) ∧
  ∀ (s : State) (nbits w : Nat) (i : Instr), s.build.legal = true → decodeTableWord nbits w = some i →
    step (s.withFetchWord nbits w) =
      exec i { s with
        inflight := none, err := false, errcode := .none, errinfo := 0, rdata := none, done := false }

/-- The engine's turn (R286) runs the command in flight: on its event, on an empty agenda, and during a wait
(which keeps its place on the agenda). When that turn comes is the model's agenda (log entries 2 and 10). -/
def Obligations.StepCompletesTheCommandInFlight : Prop :=
  ∀ (s : State) (r : InFlight) (rest : List Event), s.build.legal = true → s.inflight = some r →
    (s.agenda = .engine :: rest → step s = exec r.instr { s with agenda := rest, rdata := none }) ∧
    (s.agenda = [] → step s = exec r.instr { s with rdata := none }) ∧
    (s.agenda = .wait :: rest → step s = exec r.instr { s with rdata := none })

/-- R70, R71, R286: a legal command issued and waited for completes: after the write, the completion and the
poll that ends the wait, the block is idle, `DONE` is set, the poll returned `STATUS` with `BUSY = 0`, and the
state is the one the command's completion leaves. The three steps are the model's agenda (log entries 2, 10). -/
def Obligations.CommandThenWaitCompletes : Prop :=
  ∀ (s : State) (i : Instr) (rest : List Event), s.Ready → i.wellFormed s.build = true →
    i.argOk s.arg = true → (∀ p ∈ i.sources, p.2.ok (s.tag p.1) = true ∧ s.Written p.1) →
    (i.needsMax = true → s.maxv = true) → s.agenda = .write 0x000 4 (encode i) :: .wait :: rest →
    ∃ accepted completed,
      exec i { s with agenda := .wait :: rest, rdata := none, done := false } = .next accepted ∧
      accepted.busy = true ∧ exec i accepted = .next completed ∧
      completed.busy = false ∧ completed.done = true ∧ bits completed.statusWord 0 0 = 0 ∧
      Host.Core.run core 3 s =
        .next { completed with agenda := rest, rdata := some completed.statusWord }

/-! ### Invariants -/

/-- R40: the state after hard reset of every legal build satisfies the invariant of the machine. -/
def Obligations.ResetSatisfiesTheInvariant : Prop :=
  (∀ b : Build, b.legal = true → (State.resetOf b).Inv) ∧ State.reset.Inv

/-- Every step keeps the invariant: the memory canonical and only made of whole backed words, the status
registers in agreement, no tag beyond the build's planes, and the record in flight that of a legal command whose
snapshots still equal its source planes. -/
def Obligations.StepKeepsTheInvariant : Prop := ∀ s t : State, s.Inv → step s = .next t → t.Inv
end

