-- ==== Sys2Proof/Laws/Memory.lean ====
section
/-!
SUPPORT. Laws/Memory.lean: what each memory operation does to the read of one byte, of one word and of a row
of words, and that each keeps the canonical form of the memory.
-/

namespace Sys2Proof.Machine

variable {m : Memory} {a b n : Nat} {v : Byte} {w : Word} {ws : List Word}

/-! ### Bytes -/

@[simp] theorem Memory.read_nil : Memory.read [] a = none := rfl

theorem Memory.read_cons {c : Host.Cell} :
    Memory.read (c :: m) a = if c.1 = a then some c.2 else Memory.read m a := rfl

theorem Memory.read_eq_none_of_forall_ne (h : ∀ c ∈ m, c.1 ≠ a) : m.read a = none := by
  induction m with
  | nil => rfl
  | cons c m ih =>
    have hc : c.1 ≠ a := h c (by simp)
    have hm := ih fun e he => h e (by simp [he])
    rw [read_cons, if_neg hc, hm]

theorem Memory.read_append {m' : Memory} :
    Memory.read (m ++ m') a = (m.read a).orElse fun _ => Memory.read m' a := by
  induction m with
  | nil => rfl
  | cons c m ih =>
    rw [List.cons_append, read_cons, read_cons, ih]
    split <;> rfl

/-- A filter on addresses reads as before where it keeps the address, and as unwritten elsewhere. -/
theorem Memory.read_filter (p : Nat → Bool) :
    Memory.read (m.filter fun c => p c.1) a = if p a then m.read a else none := by
  induction m with
  | nil => simp [Memory.read]
  | cons c m ih =>
    rw [List.filter_cons]
    by_cases hp : p c.1 = true
    · rw [if_pos hp, read_cons, read_cons, ih]
      by_cases hc : c.1 = a
      · subst hc; simp [hp]
      · simp [hc]
    · rw [if_neg hp, ih, read_cons]
      by_cases hc : c.1 = a
      · subst hc; simp [hp]
      · simp [hc]

theorem Memory.read_write_of_wf (h : Memory.wf m) :
    (m.write a v).read b = if b = a then some v else m.read b := by
  induction m with
  | nil =>
    by_cases hb : b = a
    · subst hb; simp [Memory.write, read_cons]
    · simp [Memory.write, read_cons, hb, Ne.symm hb]
  | cons c m ih =>
    have hm : Memory.wf m := (List.pairwise_cons.mp h).2
    have hc : ∀ e ∈ m, c.1 < e.1 := (List.pairwise_cons.mp h).1
    unfold Memory.write
    split
    · rename_i hlt
      by_cases hb : b = a
      · subst hb; simp [read_cons]
      · simp [read_cons, hb, Ne.symm hb]
    · split
      · rename_i _ heq
        by_cases hb : b = a
        · subst hb; simp [read_cons]
        · have hcb : c.1 ≠ b := fun hx => hb (hx.symm.trans heq.symm)
          simp [read_cons, hb, Ne.symm hb, hcb]
      · rename_i _ hne
        rw [read_cons, read_cons, ih hm]
        by_cases hcb : c.1 = b
        · have : b ≠ a := fun hx => hne (hx.symm.trans hcb.symm)
          simp [hcb, this]
        · simp [hcb]

theorem Memory.mem_write {c : Host.Cell} (h : c ∈ m.write a v) : c = (a, v) ∨ c ∈ m := by
  induction m with
  | nil => simpa [Memory.write] using h
  | cons e m ih =>
    unfold Memory.write at h
    split at h
    · simpa using h
    · split at h
      · rcases List.mem_cons.mp h with h | h
        · exact .inl h
        · exact .inr (by simp [h])
      · rcases List.mem_cons.mp h with h | h
        · exact .inr (by simp [h])
        · rcases ih h with h | h
          · exact .inl h
          · exact .inr (by simp [h])

theorem Memory.wf_write (h : Memory.wf m) : Memory.wf (m.write a v) := by
  induction m with
  | nil => simp [Memory.wf, Memory.write]
  | cons c m ih =>
    have hm : Memory.wf m := (List.pairwise_cons.mp h).2
    have hc : ∀ e ∈ m, c.1 < e.1 := (List.pairwise_cons.mp h).1
    unfold Memory.write
    split
    · rename_i hlt
      refine List.pairwise_cons.mpr ⟨fun e he => ?_, h⟩
      rcases List.mem_cons.mp he with rfl | he
      · exact hlt
      · exact Nat.lt_trans hlt (hc e he)
    · split
      · rename_i _ heq
        exact List.pairwise_cons.mpr ⟨fun e he => by have := hc e he; simp only; omega, hm⟩
      · rename_i hge hne
        refine List.pairwise_cons.mpr ⟨fun e he => ?_, ih hm⟩
        rcases Memory.mem_write he with rfl | he
        · simp only; omega
        · exact hc e he

theorem Memory.wf_filter (p : Host.Cell → Bool) (h : Memory.wf m) : Memory.wf (m.filter p) :=
  List.Pairwise.filter p h

theorem Memory.read_erase :
    (m.erase a n).read b = if a ≤ b ∧ b < a + n then none else m.read b := by
  unfold Memory.erase
  rw [Memory.read_filter fun x => decide (x < a) || decide (a + n ≤ x)]
  by_cases h : a ≤ b ∧ b < a + n
  · rw [if_pos h, if_neg (by simp; omega)]
  · rw [if_neg h, if_pos (by simp; omega)]

theorem Memory.wf_erase (h : Memory.wf m) : Memory.wf (m.erase a n) := Memory.wf_filter _ h

theorem Memory.read_slice :
    (m.slice a n).read b = if a ≤ b ∧ b < a + n then m.read b else none := by
  unfold Memory.slice
  rw [Memory.read_filter fun x => decide (a ≤ x) && decide (x < a + n)]
  by_cases h : a ≤ b ∧ b < a + n
  · rw [if_pos h, if_pos (by simp; omega)]
  · rw [if_neg h, if_neg (by simp; omega)]

/-! ### Words -/

@[simp] theorem wordOfBytes_wordByte (w : Word) :
    wordOfBytes (wordByte w 0) (wordByte w 1) (wordByte w 2) (wordByte w 3) = w := by
  apply BitVec.eq_of_getLsbD_eq
  intro i hi
  unfold wordOfBytes wordByte
  rw [BitVec.getLsbD_append, BitVec.getLsbD_append, BitVec.getLsbD_append]
  simp only [BitVec.getLsbD_extractLsb']
  by_cases h0 : i < 8
  · simp [h0]
  · by_cases h1 : i - 8 < 8
    · simp [h0, h1]; congr 1; omega
    · by_cases h2 : i - 8 - 8 < 8
      · simp [h0, h1, h2]; congr 1; omega
      · have h3 : i - 8 - 8 - 8 < 8 := by omega
        simp [h0, h1, h2, h3]; congr 1; omega

/-- Two memories that agree on the four bytes of a word agree on the word. -/
theorem Memory.readWord_congr {m' : Memory} (h : ∀ k < 4, m.read (a + k) = m'.read (a + k)) :
    m.readWord a = m'.readWord a := by
  have h0 := h 0 (by omega)
  simp only [Nat.add_zero] at h0
  simp only [Memory.readWord, h0, h 1 (by omega), h 2 (by omega), h 3 (by omega)]

theorem Memory.readWord_of_bytes (h0 : m.read a = some (wordByte w 0))
    (h1 : m.read (a + 1) = some (wordByte w 1)) (h2 : m.read (a + 2) = some (wordByte w 2))
    (h3 : m.read (a + 3) = some (wordByte w 3)) : m.readWord a = some w := by
  simp [Memory.readWord, h0, h1, h2, h3]

theorem Memory.readWord_eq_none_of_byte {k : Nat} (hk : k < 4) (h : m.read (a + k) = none) :
    m.readWord a = none := by
  unfold Memory.readWord
  match k, hk with
  | 0, _ => simp_all
  | 1, _ => simp_all
  | 2, _ => simp_all
  | 3, _ => simp_all

theorem Memory.wf_writeWord (h : Memory.wf m) : Memory.wf (m.writeWord a w) :=
  Memory.wf_write (Memory.wf_write (Memory.wf_write (Memory.wf_write h)))

theorem Memory.read_writeWord (h : Memory.wf m) :
    (m.writeWord a w).read b =
      if a ≤ b ∧ b < a + 4 then some (wordByte w (b - a)) else m.read b := by
  have h1 := Memory.wf_write (a := a) (v := wordByte w 0) h
  have h2 := Memory.wf_write (a := a + 1) (v := wordByte w 1) h1
  have h3 := Memory.wf_write (a := a + 2) (v := wordByte w 2) h2
  rw [Memory.writeWord, Memory.read_write_of_wf h3, Memory.read_write_of_wf h2,
    Memory.read_write_of_wf h1, Memory.read_write_of_wf h]
  by_cases e3 : b = a + 3
  · subst e3; simp
  · by_cases e2 : b = a + 2
    · subst e2; simp
    · by_cases e1 : b = a + 1
      · subst e1; simp
      · by_cases e0 : b = a
        · subst e0; simp
        · rw [if_neg e3, if_neg e2, if_neg e1, if_neg e0, if_neg (by omega)]

theorem Memory.readWord_writeWord_self (h : Memory.wf m) : (m.writeWord a w).readWord a = some w := by
  apply Memory.readWord_of_bytes <;> rw [Memory.read_writeWord h] <;> simp

theorem Memory.readWord_writeWord_other (h : Memory.wf m) (hab : b + 4 ≤ a ∨ a + 4 ≤ b) :
    (m.writeWord a w).readWord b = m.readWord b := by
  apply Memory.readWord_congr
  intro k hk
  rw [Memory.read_writeWord h, if_neg (by omega)]

/-! ### Rows of words -/

theorem wordCells_addr {c : Host.Cell} (h : c ∈ wordCells a ws) : a ≤ c.1 ∧ c.1 < a + 4 * ws.length := by
  induction ws generalizing a with
  | nil => simp [wordCells] at h
  | cons w ws ih =>
    simp only [wordCells, List.mem_cons] at h
    simp only [List.length_cons]
    rcases h with rfl | rfl | rfl | rfl | h
    · simp only; omega
    · simp only; omega
    · simp only; omega
    · simp only; omega
    · have := ih h; omega

theorem wf_wordCells : Memory.wf (wordCells a ws) := by
  induction ws generalizing a with
  | nil => simp [wordCells, Memory.wf]
  | cons w ws ih =>
    have h4 : ∀ c ∈ wordCells (a + 4) ws, a + 4 ≤ c.1 := fun c hc => (wordCells_addr hc).1
    simp only [wordCells, Memory.wf, List.pairwise_cons, List.mem_cons]
    refine ⟨?_, ?_, ?_, ?_, ih⟩
    · rintro e (rfl | rfl | rfl | he) <;> first | (simp only; omega) | (have := h4 e he; omega)
    · rintro e (rfl | rfl | he) <;> first | (simp only; omega) | (have := h4 e he; omega)
    · rintro e (rfl | he) <;> first | (simp only; omega) | (have := h4 e he; omega)
    · intro e he; have := h4 e he; omega

theorem read_wordCells {i k : Nat} (hi : i < ws.length) (hk : k < 4) :
    Memory.read (wordCells a ws) (a + 4 * i + k) = some (wordByte ws[i] k) := by
  induction ws generalizing a i with
  | nil => simp at hi
  | cons w ws ih =>
    cases i with
    | zero =>
      simp only [wordCells, Memory.read_cons]
      match k, hk with
      | 0, _ => simp
      | 1, _ => simp
      | 2, _ => simp
      | 3, _ => simp
    | succ i =>
      have hi' : i < ws.length := by simpa using hi
      have e : a + 4 * (i + 1) + k = a + 4 + 4 * i + k := by omega
      simp only [wordCells, Memory.read_cons, e]
      rw [if_neg (by omega), if_neg (by omega), if_neg (by omega), if_neg (by omega), ih hi']
      simp

theorem Memory.wf_writeWords (h : Memory.wf m) : Memory.wf (m.writeWords a ws) := by
  unfold Memory.writeWords Memory.wf
  rw [List.pairwise_append, List.pairwise_append]
  refine ⟨⟨Memory.wf_filter _ h, wf_wordCells, ?_⟩, Memory.wf_filter _ h, ?_⟩
  · intro c hc e he
    have h1 := (List.mem_filter.mp hc).2
    have h2 := wordCells_addr he
    simp only [decide_eq_true_eq] at h1
    omega
  · intro c hc e he
    have h2 := (List.mem_filter.mp he).2
    simp only [decide_eq_true_eq] at h2
    rcases List.mem_append.mp hc with hc | hc
    · have h1 := (List.mem_filter.mp hc).2
      simp only [decide_eq_true_eq] at h1
      omega
    · have h1 := wordCells_addr hc
      omega

/-- Outside the written row every byte reads as before. -/
theorem Memory.read_writeWords_other (h : b < a ∨ a + 4 * ws.length ≤ b) :
    (m.writeWords a ws).read b = m.read b := by
  unfold Memory.writeWords
  have hc : Memory.read (wordCells a ws) b = none :=
    Memory.read_eq_none_of_forall_ne fun c hc => by have := wordCells_addr hc; omega
  rw [Memory.read_append, Memory.read_append, hc, Memory.read_filter fun x => decide (x < a),
    Memory.read_filter fun x => decide (a + 4 * ws.length ≤ x)]
  rcases h with h | h
  · have h2 : ¬ a + 4 * ws.length ≤ b := by omega
    simp only [h, h2, decide_true, decide_false, if_true]
    cases m.read b <;> rfl
  · have h2 : ¬ b < a := by omega
    simp [h, h2]

/-- The written row reads as the words written, whatever the memory held. -/
theorem Memory.read_writeWords_self {i k : Nat} (hi : i < ws.length) (hk : k < 4) :
    (m.writeWords a ws).read (a + 4 * i + k) = some (wordByte ws[i] k) := by
  unfold Memory.writeWords
  rw [Memory.read_append, Memory.read_append, read_wordCells hi hk, Memory.read_filter fun x => decide (x < a),
    if_neg (by simp; omega)]
  rfl

theorem Memory.readWord_writeWords_self {i : Nat} (hi : i < ws.length) :
    (m.writeWords a ws).readWord (a + 4 * i) = some ws[i] :=
  Memory.readWord_of_bytes (Memory.read_writeWords_self (k := 0) hi (by omega))
    (Memory.read_writeWords_self hi (by omega)) (Memory.read_writeWords_self hi (by omega))
    (Memory.read_writeWords_self hi (by omega))

theorem Memory.readWord_writeWords_other (h : b + 4 ≤ a ∨ a + 4 * ws.length ≤ b) :
    (m.writeWords a ws).readWord b = m.readWord b :=
  Memory.readWord_congr fun k hk => Memory.read_writeWords_other (by omega)

/-- A row of words can be read exactly if each of its words can. -/
theorem Memory.readWords_eq_some_iff :
    m.readWords a n = some ws ↔
      ws.length = n ∧ ∀ i (h : i < ws.length), m.readWord (a + 4 * i) = some ws[i] := by
  induction n generalizing a ws with
  | zero =>
    simp only [Memory.readWords, Option.some.injEq]
    constructor
    · rintro rfl; simp
    · rintro ⟨h, _⟩; exact (List.eq_nil_of_length_eq_zero h).symm
  | succ n ih =>
    unfold Memory.readWords
    constructor
    · intro h
      split at h
      · rename_i w0 ws0 h0 h1
        cases h
        obtain ⟨hl, hw⟩ := ih.mp h1
        refine ⟨by simp [hl], fun i hi => ?_⟩
        cases i with
        | zero => simpa using h0
        | succ i =>
          have := hw i (by simpa using hi)
          rw [show a + 4 * (i + 1) = a + 4 + 4 * i by omega]
          simpa using this
      · cases h
    · rintro ⟨hl, hw⟩
      cases ws with
      | nil => simp at hl
      | cons w0 ws0 =>
        have h0 := hw 0 (by simp)
        have h1 : m.readWords (a + 4) n = some ws0 := by
          refine ih.mpr ⟨by simpa using hl, fun i hi => ?_⟩
          have := hw (i + 1) (by simpa using hi)
          rw [show a + 4 * (i + 1) = a + 4 + 4 * i by omega] at this
          simpa using this
        simp only [Nat.mul_zero, Nat.add_zero, List.getElem_cons_zero] at h0
        rw [h0, h1]

/-- Two memories that agree on the words of a row agree on the row. -/
theorem Memory.readWords_congr {m' : Memory}
    (h : ∀ i < n, m.readWord (a + 4 * i) = m'.readWord (a + 4 * i)) :
    m.readWords a n = m'.readWords a n := by
  induction n generalizing a with
  | zero => rfl
  | succ n ih =>
    have h0 := h 0 (by omega)
    simp only [Nat.mul_zero, Nat.add_zero] at h0
    have h1 := ih (a := a + 4) fun i hi => by
      rw [show a + 4 + 4 * i = a + 4 * (i + 1) by omega]; exact h (i + 1) (by omega)
    simp only [Memory.readWords, h0, h1]

theorem Memory.readWords_writeWords_self : (m.writeWords a ws).readWords a ws.length = some ws :=
  Memory.readWords_eq_some_iff.mpr ⟨rfl, fun _ hi => Memory.readWord_writeWords_self hi⟩

/-! ### Planes -/

/-- The slice a plane read works on reads as the memory does. -/
theorem State.planeWords_eq (s : State) (p : PlaneNo) :
    s.planeWords p = s.mem.readWords (planeBase p) s.build.size := by
  refine Memory.readWords_congr fun i hi => Memory.readWord_congr fun k hk => ?_
  rw [Memory.read_slice, if_pos (by omega)]

theorem State.planeWords_eq_some_iff {s : State} {p : PlaneNo} :
    s.planeWords p = some ws ↔
      ws.length = s.build.size ∧ ∀ i (h : i < ws.length), s.planeWord p i = some ws[i] := by
  rw [State.planeWords_eq]; exact Memory.readWords_eq_some_iff

/-- The planes of a legal build do not overlap (R62). -/
theorem planeAddr_disjoint {b : Build} (hb : b.legal = true) {p q : PlaneNo} (hpq : p ≠ q) {i j : Nat}
    (hi : i < b.size) (hj : j < b.size) : planeAddr p i + 4 ≤ planeAddr q j ∨ planeAddr q j + 4 ≤ planeAddr p i := by
  have hs : b.size ≤ 2 ^ 22 := by
    simp only [Build.legal, Bool.and_eq_true, decide_eq_true_eq] at hb
    exact hb.1.1.2
  have hv : p.val ≠ q.val := fun h => hpq (Fin.ext h)
  unfold planeAddr planeBase
  omega

end Sys2Proof.Machine
end

