-- ==== Sys2Proof/Laws/State.lean ====
section
/-!
SUPPORT. Laws/State.lean: one lemma per field of `State` for each named update, so that no later proof
unfolds a record update.
-/

namespace Sys2Proof.Machine

variable (s : State)

/-! ### `State.advance` -/

@[simp] theorem State.advance_build (rest : List Event) : (s.advance rest).build = s.build := rfl
@[simp] theorem State.advance_arg (rest : List Event) : (s.advance rest).arg = s.arg := rfl
@[simp] theorem State.advance_done (rest : List Event) : (s.advance rest).done = s.done := rfl
@[simp] theorem State.advance_err (rest : List Event) : (s.advance rest).err = s.err := rfl
@[simp] theorem State.advance_maxv (rest : List Event) : (s.advance rest).maxv = s.maxv := rfl
@[simp] theorem State.advance_errcode (rest : List Event) : (s.advance rest).errcode = s.errcode := rfl
@[simp] theorem State.advance_margin (rest : List Event) : (s.advance rest).margin = s.margin := rfl
@[simp] theorem State.advance_maxr (rest : List Event) : (s.advance rest).maxr = s.maxr := rfl
@[simp] theorem State.advance_errinfo (rest : List Event) : (s.advance rest).errinfo = s.errinfo := rfl
@[simp] theorem State.advance_kcoef (rest : List Event) : (s.advance rest).kcoef = s.kcoef := rfl
@[simp] theorem State.advance_tags (rest : List Event) : (s.advance rest).tags = s.tags := rfl
@[simp] theorem State.advance_mem (rest : List Event) : (s.advance rest).mem = s.mem := rfl
@[simp] theorem State.advance_inflight (rest : List Event) : (s.advance rest).inflight = s.inflight := rfl
@[simp] theorem State.advance_agenda (rest : List Event) : (s.advance rest).agenda = rest := rfl
@[simp] theorem State.advance_rdata (rest : List Event) : (s.advance rest).rdata = none := rfl

/-! ### `State.answer` -/

@[simp] theorem State.answer_build (v : Word) : (s.answer v).build = s.build := rfl
@[simp] theorem State.answer_arg (v : Word) : (s.answer v).arg = s.arg := rfl
@[simp] theorem State.answer_done (v : Word) : (s.answer v).done = s.done := rfl
@[simp] theorem State.answer_err (v : Word) : (s.answer v).err = s.err := rfl
@[simp] theorem State.answer_maxv (v : Word) : (s.answer v).maxv = s.maxv := rfl
@[simp] theorem State.answer_errcode (v : Word) : (s.answer v).errcode = s.errcode := rfl
@[simp] theorem State.answer_margin (v : Word) : (s.answer v).margin = s.margin := rfl
@[simp] theorem State.answer_maxr (v : Word) : (s.answer v).maxr = s.maxr := rfl
@[simp] theorem State.answer_errinfo (v : Word) : (s.answer v).errinfo = s.errinfo := rfl
@[simp] theorem State.answer_kcoef (v : Word) : (s.answer v).kcoef = s.kcoef := rfl
@[simp] theorem State.answer_tags (v : Word) : (s.answer v).tags = s.tags := rfl
@[simp] theorem State.answer_mem (v : Word) : (s.answer v).mem = s.mem := rfl
@[simp] theorem State.answer_inflight (v : Word) : (s.answer v).inflight = s.inflight := rfl
@[simp] theorem State.answer_agenda (v : Word) : (s.answer v).agenda = s.agenda := rfl
@[simp] theorem State.answer_rdata (v : Word) : (s.answer v).rdata = some v := rfl

/-! ### `State.cmdError` -/

@[simp] theorem State.cmdError_build (e : ErrCode) (w : Word) : (s.cmdError e w).build = s.build := rfl
@[simp] theorem State.cmdError_arg (e : ErrCode) (w : Word) : (s.cmdError e w).arg = s.arg := rfl
@[simp] theorem State.cmdError_done (e : ErrCode) (w : Word) : (s.cmdError e w).done = s.done := rfl
@[simp] theorem State.cmdError_err (e : ErrCode) (w : Word) : (s.cmdError e w).err = true := rfl
@[simp] theorem State.cmdError_maxv (e : ErrCode) (w : Word) : (s.cmdError e w).maxv = s.maxv := rfl
@[simp] theorem State.cmdError_errcode (e : ErrCode) (w : Word) : (s.cmdError e w).errcode = e := rfl
@[simp] theorem State.cmdError_margin (e : ErrCode) (w : Word) : (s.cmdError e w).margin = s.margin := rfl
@[simp] theorem State.cmdError_maxr (e : ErrCode) (w : Word) : (s.cmdError e w).maxr = s.maxr := rfl
@[simp] theorem State.cmdError_errinfo (e : ErrCode) (w : Word) : (s.cmdError e w).errinfo = w := rfl
@[simp] theorem State.cmdError_kcoef (e : ErrCode) (w : Word) : (s.cmdError e w).kcoef = s.kcoef := rfl
@[simp] theorem State.cmdError_tags (e : ErrCode) (w : Word) : (s.cmdError e w).tags = s.tags := rfl
@[simp] theorem State.cmdError_mem (e : ErrCode) (w : Word) : (s.cmdError e w).mem = s.mem := rfl
@[simp] theorem State.cmdError_inflight (e : ErrCode) (w : Word) :
    (s.cmdError e w).inflight = s.inflight := rfl
@[simp] theorem State.cmdError_agenda (e : ErrCode) (w : Word) : (s.cmdError e w).agenda = s.agenda := rfl
@[simp] theorem State.cmdError_rdata (e : ErrCode) (w : Word) : (s.cmdError e w).rdata = s.rdata := rfl

/-! ### `State.accept` -/

@[simp] theorem State.accept_build (r : InFlight) : (s.accept r).build = s.build := rfl
@[simp] theorem State.accept_arg (r : InFlight) : (s.accept r).arg = s.arg := rfl
@[simp] theorem State.accept_done (r : InFlight) : (s.accept r).done = s.done := rfl
@[simp] theorem State.accept_err (r : InFlight) : (s.accept r).err = s.err := rfl
@[simp] theorem State.accept_maxv (r : InFlight) : (s.accept r).maxv = s.maxv := rfl
@[simp] theorem State.accept_errcode (r : InFlight) : (s.accept r).errcode = s.errcode := rfl
@[simp] theorem State.accept_margin (r : InFlight) : (s.accept r).margin = s.margin := rfl
@[simp] theorem State.accept_maxr (r : InFlight) : (s.accept r).maxr = s.maxr := rfl
@[simp] theorem State.accept_errinfo (r : InFlight) : (s.accept r).errinfo = s.errinfo := rfl
@[simp] theorem State.accept_kcoef (r : InFlight) : (s.accept r).kcoef = s.kcoef := rfl
@[simp] theorem State.accept_tags (r : InFlight) : (s.accept r).tags = s.tags := rfl
@[simp] theorem State.accept_mem (r : InFlight) : (s.accept r).mem = s.mem := rfl
@[simp] theorem State.accept_inflight (r : InFlight) : (s.accept r).inflight = some r := rfl
@[simp] theorem State.accept_agenda (r : InFlight) : (s.accept r).agenda = s.agenda := rfl
@[simp] theorem State.accept_rdata (r : InFlight) : (s.accept r).rdata = s.rdata := rfl

/-! ### `State.setTag` -/

@[simp] theorem State.setTag_build (p : PlaneNo) (t : Tag) : (s.setTag p t).build = s.build := rfl
@[simp] theorem State.setTag_arg (p : PlaneNo) (t : Tag) : (s.setTag p t).arg = s.arg := rfl
@[simp] theorem State.setTag_done (p : PlaneNo) (t : Tag) : (s.setTag p t).done = s.done := rfl
@[simp] theorem State.setTag_err (p : PlaneNo) (t : Tag) : (s.setTag p t).err = s.err := rfl
@[simp] theorem State.setTag_maxv (p : PlaneNo) (t : Tag) : (s.setTag p t).maxv = s.maxv := rfl
@[simp] theorem State.setTag_errcode (p : PlaneNo) (t : Tag) : (s.setTag p t).errcode = s.errcode := rfl
@[simp] theorem State.setTag_margin (p : PlaneNo) (t : Tag) : (s.setTag p t).margin = s.margin := rfl
@[simp] theorem State.setTag_maxr (p : PlaneNo) (t : Tag) : (s.setTag p t).maxr = s.maxr := rfl
@[simp] theorem State.setTag_errinfo (p : PlaneNo) (t : Tag) : (s.setTag p t).errinfo = s.errinfo := rfl
@[simp] theorem State.setTag_kcoef (p : PlaneNo) (t : Tag) : (s.setTag p t).kcoef = s.kcoef := rfl
@[simp] theorem State.setTag_tags (p : PlaneNo) (t : Tag) :
    (s.setTag p t).tags = s.tags.set p.val t p.isLt := rfl
@[simp] theorem State.setTag_mem (p : PlaneNo) (t : Tag) : (s.setTag p t).mem = s.mem := rfl
@[simp] theorem State.setTag_inflight (p : PlaneNo) (t : Tag) : (s.setTag p t).inflight = s.inflight := rfl
@[simp] theorem State.setTag_agenda (p : PlaneNo) (t : Tag) : (s.setTag p t).agenda = s.agenda := rfl
@[simp] theorem State.setTag_rdata (p : PlaneNo) (t : Tag) : (s.setTag p t).rdata = s.rdata := rfl

/-! ### `State.setKcoef` -/

@[simp] theorem State.setKcoef_build (i : Fin 25) (v : Word) : (s.setKcoef i v).build = s.build := rfl
@[simp] theorem State.setKcoef_arg (i : Fin 25) (v : Word) : (s.setKcoef i v).arg = s.arg := rfl
@[simp] theorem State.setKcoef_done (i : Fin 25) (v : Word) : (s.setKcoef i v).done = s.done := rfl
@[simp] theorem State.setKcoef_err (i : Fin 25) (v : Word) : (s.setKcoef i v).err = s.err := rfl
@[simp] theorem State.setKcoef_maxv (i : Fin 25) (v : Word) : (s.setKcoef i v).maxv = s.maxv := rfl
@[simp] theorem State.setKcoef_errcode (i : Fin 25) (v : Word) : (s.setKcoef i v).errcode = s.errcode := rfl
@[simp] theorem State.setKcoef_margin (i : Fin 25) (v : Word) : (s.setKcoef i v).margin = s.margin := rfl
@[simp] theorem State.setKcoef_maxr (i : Fin 25) (v : Word) : (s.setKcoef i v).maxr = s.maxr := rfl
@[simp] theorem State.setKcoef_errinfo (i : Fin 25) (v : Word) : (s.setKcoef i v).errinfo = s.errinfo := rfl
@[simp] theorem State.setKcoef_kcoef (i : Fin 25) (v : Word) :
    (s.setKcoef i v).kcoef = s.kcoef.set i.val (v.extractLsb' 0 16) i.isLt := rfl
@[simp] theorem State.setKcoef_tags (i : Fin 25) (v : Word) : (s.setKcoef i v).tags = s.tags := rfl
@[simp] theorem State.setKcoef_mem (i : Fin 25) (v : Word) : (s.setKcoef i v).mem = s.mem := rfl
@[simp] theorem State.setKcoef_inflight (i : Fin 25) (v : Word) :
    (s.setKcoef i v).inflight = s.inflight := rfl
@[simp] theorem State.setKcoef_agenda (i : Fin 25) (v : Word) : (s.setKcoef i v).agenda = s.agenda := rfl
@[simp] theorem State.setKcoef_rdata (i : Fin 25) (v : Word) : (s.setKcoef i v).rdata = s.rdata := rfl

/-! ### `State.erasePlane` -/

@[simp] theorem State.erasePlane_build (p : PlaneNo) : (s.erasePlane p).build = s.build := rfl
@[simp] theorem State.erasePlane_arg (p : PlaneNo) : (s.erasePlane p).arg = s.arg := rfl
@[simp] theorem State.erasePlane_done (p : PlaneNo) : (s.erasePlane p).done = s.done := rfl
@[simp] theorem State.erasePlane_err (p : PlaneNo) : (s.erasePlane p).err = s.err := rfl
@[simp] theorem State.erasePlane_maxv (p : PlaneNo) : (s.erasePlane p).maxv = s.maxv := rfl
@[simp] theorem State.erasePlane_errcode (p : PlaneNo) : (s.erasePlane p).errcode = s.errcode := rfl
@[simp] theorem State.erasePlane_margin (p : PlaneNo) : (s.erasePlane p).margin = s.margin := rfl
@[simp] theorem State.erasePlane_maxr (p : PlaneNo) : (s.erasePlane p).maxr = s.maxr := rfl
@[simp] theorem State.erasePlane_errinfo (p : PlaneNo) : (s.erasePlane p).errinfo = s.errinfo := rfl
@[simp] theorem State.erasePlane_kcoef (p : PlaneNo) : (s.erasePlane p).kcoef = s.kcoef := rfl
@[simp] theorem State.erasePlane_tags (p : PlaneNo) : (s.erasePlane p).tags = s.tags := rfl
@[simp] theorem State.erasePlane_mem (p : PlaneNo) :
    (s.erasePlane p).mem = s.mem.erase (planeBase p) (4 * s.build.size) := rfl
@[simp] theorem State.erasePlane_inflight (p : PlaneNo) : (s.erasePlane p).inflight = s.inflight := rfl
@[simp] theorem State.erasePlane_agenda (p : PlaneNo) : (s.erasePlane p).agenda = s.agenda := rfl
@[simp] theorem State.erasePlane_rdata (p : PlaneNo) : (s.erasePlane p).rdata = s.rdata := rfl

/-! ### `State.setPtype` -/

@[simp] theorem State.setPtype_build (p : PlaneNo) (v : Word) : (s.setPtype p v).build = s.build := by
  unfold State.setPtype; split <;> rfl
@[simp] theorem State.setPtype_arg (p : PlaneNo) (v : Word) : (s.setPtype p v).arg = s.arg := by
  unfold State.setPtype; split <;> rfl
@[simp] theorem State.setPtype_done (p : PlaneNo) (v : Word) : (s.setPtype p v).done = s.done := by
  unfold State.setPtype; split <;> rfl
@[simp] theorem State.setPtype_err (p : PlaneNo) (v : Word) : (s.setPtype p v).err = s.err := by
  unfold State.setPtype; split <;> rfl
@[simp] theorem State.setPtype_maxv (p : PlaneNo) (v : Word) : (s.setPtype p v).maxv = s.maxv := by
  unfold State.setPtype; split <;> rfl
@[simp] theorem State.setPtype_errcode (p : PlaneNo) (v : Word) : (s.setPtype p v).errcode = s.errcode := by
  unfold State.setPtype; split <;> rfl
@[simp] theorem State.setPtype_margin (p : PlaneNo) (v : Word) : (s.setPtype p v).margin = s.margin := by
  unfold State.setPtype; split <;> rfl
@[simp] theorem State.setPtype_maxr (p : PlaneNo) (v : Word) : (s.setPtype p v).maxr = s.maxr := by
  unfold State.setPtype; split <;> rfl
@[simp] theorem State.setPtype_errinfo (p : PlaneNo) (v : Word) : (s.setPtype p v).errinfo = s.errinfo := by
  unfold State.setPtype; split <;> rfl
@[simp] theorem State.setPtype_kcoef (p : PlaneNo) (v : Word) : (s.setPtype p v).kcoef = s.kcoef := by
  unfold State.setPtype; split <;> rfl
@[simp] theorem State.setPtype_mem (p : PlaneNo) (v : Word) : (s.setPtype p v).mem = s.mem := by
  unfold State.setPtype; split <;> rfl
@[simp] theorem State.setPtype_inflight (p : PlaneNo) (v : Word) : (s.setPtype p v).inflight = s.inflight := by
  unfold State.setPtype; split <;> rfl
@[simp] theorem State.setPtype_agenda (p : PlaneNo) (v : Word) : (s.setPtype p v).agenda = s.agenda := by
  unfold State.setPtype; split <;> rfl
@[simp] theorem State.setPtype_rdata (p : PlaneNo) (v : Word) : (s.setPtype p v).rdata = s.rdata := by
  unfold State.setPtype; split <;> rfl

theorem State.setPtype_tags (p : PlaneNo) (v : Word) :
    (s.setPtype p v).tags =
      if p.val < s.build.nplanes then s.tags.set p.val (Tag.ofCode (bits v 3 0)) p.isLt else s.tags := by
  unfold State.setPtype; split <;> rfl

/-! ### `State.abort` -/

@[simp] theorem State.abort_build : s.abort.build = s.build := by unfold State.abort; split <;> rfl
@[simp] theorem State.abort_arg : s.abort.arg = s.arg := by unfold State.abort; split <;> rfl
@[simp] theorem State.abort_done : s.abort.done = s.done := by unfold State.abort; split <;> rfl
@[simp] theorem State.abort_err : s.abort.err = s.err := by unfold State.abort; split <;> rfl
@[simp] theorem State.abort_maxv : s.abort.maxv = s.maxv := by unfold State.abort; split <;> rfl
@[simp] theorem State.abort_errcode : s.abort.errcode = s.errcode := by unfold State.abort; split <;> rfl
@[simp] theorem State.abort_margin : s.abort.margin = s.margin := by unfold State.abort; split <;> rfl
@[simp] theorem State.abort_maxr : s.abort.maxr = s.maxr := by unfold State.abort; split <;> rfl
@[simp] theorem State.abort_errinfo : s.abort.errinfo = s.errinfo := by unfold State.abort; split <;> rfl
@[simp] theorem State.abort_kcoef : s.abort.kcoef = s.kcoef := by unfold State.abort; split <;> rfl
@[simp] theorem State.abort_tags : s.abort.tags = s.tags := by unfold State.abort; split <;> rfl
@[simp] theorem State.abort_inflight : s.abort.inflight = s.inflight := by unfold State.abort; split <;> rfl
@[simp] theorem State.abort_agenda : s.abort.agenda = s.agenda := by unfold State.abort; split <;> rfl
@[simp] theorem State.abort_rdata : s.abort.rdata = s.rdata := by unfold State.abort; split <;> rfl

theorem State.abort_mem :
    s.abort.mem =
      match s.inflightDst with
      | some d => s.mem.erase (planeBase d) (4 * s.build.size)
      | none => s.mem := by
  unfold State.abort; cases s.inflightDst <;> rfl

/-! ### `State.softReset` -/

@[simp] theorem State.softReset_arg : (s.softReset).arg = 0 := rfl
@[simp] theorem State.softReset_done : (s.softReset).done = false := rfl
@[simp] theorem State.softReset_err : (s.softReset).err = false := rfl
@[simp] theorem State.softReset_maxv : (s.softReset).maxv = false := rfl
@[simp] theorem State.softReset_errcode : (s.softReset).errcode = .none := rfl
@[simp] theorem State.softReset_margin : (s.softReset).margin = marginReset := rfl
@[simp] theorem State.softReset_maxr : (s.softReset).maxr = 0 := rfl
@[simp] theorem State.softReset_errinfo : (s.softReset).errinfo = 0 := rfl
@[simp] theorem State.softReset_kcoef : (s.softReset).kcoef = Vector.replicate 25 0 := rfl
@[simp] theorem State.softReset_tags : (s.softReset).tags = Vector.replicate 16 .none := rfl
@[simp] theorem State.softReset_mem : (s.softReset).mem = s.abort.mem := rfl
@[simp] theorem State.softReset_inflight : (s.softReset).inflight = none := rfl

@[simp] theorem State.softReset_build : s.softReset.build = s.build := s.abort_build
@[simp] theorem State.softReset_agenda : s.softReset.agenda = s.agenda := s.abort_agenda
@[simp] theorem State.softReset_rdata : s.softReset.rdata = s.rdata := s.abort_rdata

/-! ### `State.hardReset` -/

@[simp] theorem State.hardReset_build : (s.hardReset).build = s.build := rfl
@[simp] theorem State.hardReset_arg : (s.hardReset).arg = 0 := rfl
@[simp] theorem State.hardReset_done : (s.hardReset).done = false := rfl
@[simp] theorem State.hardReset_err : (s.hardReset).err = false := rfl
@[simp] theorem State.hardReset_maxv : (s.hardReset).maxv = false := rfl
@[simp] theorem State.hardReset_errcode : (s.hardReset).errcode = .none := rfl
@[simp] theorem State.hardReset_margin : (s.hardReset).margin = 5 := rfl
@[simp] theorem State.hardReset_maxr : (s.hardReset).maxr = 0 := rfl
@[simp] theorem State.hardReset_errinfo : (s.hardReset).errinfo = 0 := rfl
@[simp] theorem State.hardReset_kcoef : (s.hardReset).kcoef = Vector.replicate 25 0 := rfl
@[simp] theorem State.hardReset_tags : (s.hardReset).tags = Vector.replicate 16 .none := rfl
@[simp] theorem State.hardReset_mem : (s.hardReset).mem = [] := rfl
@[simp] theorem State.hardReset_inflight : (s.hardReset).inflight = none := rfl
@[simp] theorem State.hardReset_agenda : (s.hardReset).agenda = s.agenda := rfl
@[simp] theorem State.hardReset_rdata : (s.hardReset).rdata = none := rfl

/-! ### `State.offerCommand` -/

@[simp] theorem State.offerCommand_build (w : Word) : (s.offerCommand w).build = s.build := rfl
@[simp] theorem State.offerCommand_arg (w : Word) : (s.offerCommand w).arg = s.arg := rfl
@[simp] theorem State.offerCommand_done (w : Word) : (s.offerCommand w).done = s.done := rfl
@[simp] theorem State.offerCommand_err (w : Word) : (s.offerCommand w).err = false := rfl
@[simp] theorem State.offerCommand_maxv (w : Word) : (s.offerCommand w).maxv = s.maxv := rfl
@[simp] theorem State.offerCommand_errcode (w : Word) : (s.offerCommand w).errcode = .none := rfl
@[simp] theorem State.offerCommand_margin (w : Word) : (s.offerCommand w).margin = s.margin := rfl
@[simp] theorem State.offerCommand_maxr (w : Word) : (s.offerCommand w).maxr = s.maxr := rfl
@[simp] theorem State.offerCommand_errinfo (w : Word) : (s.offerCommand w).errinfo = 0 := rfl
@[simp] theorem State.offerCommand_kcoef (w : Word) : (s.offerCommand w).kcoef = s.kcoef := rfl
@[simp] theorem State.offerCommand_tags (w : Word) : (s.offerCommand w).tags = s.tags := rfl
@[simp] theorem State.offerCommand_mem (w : Word) : (s.offerCommand w).mem = s.mem := rfl
@[simp] theorem State.offerCommand_inflight (w : Word) : (s.offerCommand w).inflight = none := rfl
@[simp] theorem State.offerCommand_agenda (w : Word) :
    (s.offerCommand w).agenda = .write 0x000 4 w :: s.agenda := rfl
@[simp] theorem State.offerCommand_rdata (w : Word) : (s.offerCommand w).rdata = s.rdata := rfl

/-! ### `State.storePlane`, `State.storeMax`, `State.complete` -/

@[simp] theorem State.storePlane_build (o : Option (PlaneNo × Tag × List Word)) :
    (s.storePlane o).build = s.build := by
  unfold State.storePlane; split <;> rfl
@[simp] theorem State.storePlane_arg (o : Option (PlaneNo × Tag × List Word)) :
    (s.storePlane o).arg = s.arg := by
  unfold State.storePlane; split <;> rfl
@[simp] theorem State.storePlane_done (o : Option (PlaneNo × Tag × List Word)) :
    (s.storePlane o).done = s.done := by
  unfold State.storePlane; split <;> rfl
@[simp] theorem State.storePlane_err (o : Option (PlaneNo × Tag × List Word)) :
    (s.storePlane o).err = s.err := by
  unfold State.storePlane; split <;> rfl
@[simp] theorem State.storePlane_maxv (o : Option (PlaneNo × Tag × List Word)) :
    (s.storePlane o).maxv = s.maxv := by
  unfold State.storePlane; split <;> rfl
@[simp] theorem State.storePlane_errcode (o : Option (PlaneNo × Tag × List Word)) :
    (s.storePlane o).errcode = s.errcode := by
  unfold State.storePlane; split <;> rfl
@[simp] theorem State.storePlane_margin (o : Option (PlaneNo × Tag × List Word)) :
    (s.storePlane o).margin = s.margin := by
  unfold State.storePlane; split <;> rfl
@[simp] theorem State.storePlane_maxr (o : Option (PlaneNo × Tag × List Word)) :
    (s.storePlane o).maxr = s.maxr := by
  unfold State.storePlane; split <;> rfl
@[simp] theorem State.storePlane_errinfo (o : Option (PlaneNo × Tag × List Word)) :
    (s.storePlane o).errinfo = s.errinfo := by
  unfold State.storePlane; split <;> rfl
@[simp] theorem State.storePlane_kcoef (o : Option (PlaneNo × Tag × List Word)) :
    (s.storePlane o).kcoef = s.kcoef := by
  unfold State.storePlane; split <;> rfl
@[simp] theorem State.storePlane_inflight (o : Option (PlaneNo × Tag × List Word)) :
    (s.storePlane o).inflight = s.inflight := by
  unfold State.storePlane; split <;> rfl
@[simp] theorem State.storePlane_agenda (o : Option (PlaneNo × Tag × List Word)) :
    (s.storePlane o).agenda = s.agenda := by
  unfold State.storePlane; split <;> rfl
@[simp] theorem State.storePlane_rdata (o : Option (PlaneNo × Tag × List Word)) :
    (s.storePlane o).rdata = s.rdata := by
  unfold State.storePlane; split <;> rfl
@[simp] theorem State.storePlane_none : s.storePlane none = s := rfl
@[simp] theorem State.storePlane_some_mem (d : PlaneNo) (t : Tag) (ws : List Word) :
    (s.storePlane (some (d, t, ws))).mem = s.mem.writeWords (planeBase d) ws := rfl
@[simp] theorem State.storePlane_some_tags (d : PlaneNo) (t : Tag) (ws : List Word) :
    (s.storePlane (some (d, t, ws))).tags = s.tags.set d.val t d.isLt := rfl
@[simp] theorem State.storeMax_build (o : Option Word) : (s.storeMax o).build = s.build := by
  unfold State.storeMax; split <;> rfl
@[simp] theorem State.storeMax_arg (o : Option Word) : (s.storeMax o).arg = s.arg := by
  unfold State.storeMax; split <;> rfl
@[simp] theorem State.storeMax_done (o : Option Word) : (s.storeMax o).done = s.done := by
  unfold State.storeMax; split <;> rfl
@[simp] theorem State.storeMax_err (o : Option Word) : (s.storeMax o).err = s.err := by
  unfold State.storeMax; split <;> rfl
@[simp] theorem State.storeMax_errcode (o : Option Word) : (s.storeMax o).errcode = s.errcode := by
  unfold State.storeMax; split <;> rfl
@[simp] theorem State.storeMax_margin (o : Option Word) : (s.storeMax o).margin = s.margin := by
  unfold State.storeMax; split <;> rfl
@[simp] theorem State.storeMax_errinfo (o : Option Word) : (s.storeMax o).errinfo = s.errinfo := by
  unfold State.storeMax; split <;> rfl
@[simp] theorem State.storeMax_kcoef (o : Option Word) : (s.storeMax o).kcoef = s.kcoef := by
  unfold State.storeMax; split <;> rfl
@[simp] theorem State.storeMax_tags (o : Option Word) : (s.storeMax o).tags = s.tags := by
  unfold State.storeMax; split <;> rfl
@[simp] theorem State.storeMax_mem (o : Option Word) : (s.storeMax o).mem = s.mem := by
  unfold State.storeMax; split <;> rfl
@[simp] theorem State.storeMax_inflight (o : Option Word) : (s.storeMax o).inflight = s.inflight := by
  unfold State.storeMax; split <;> rfl
@[simp] theorem State.storeMax_agenda (o : Option Word) : (s.storeMax o).agenda = s.agenda := by
  unfold State.storeMax; split <;> rfl
@[simp] theorem State.storeMax_rdata (o : Option Word) : (s.storeMax o).rdata = s.rdata := by
  unfold State.storeMax; split <;> rfl
@[simp] theorem State.storeMax_none : s.storeMax none = s := rfl
@[simp] theorem State.storeMax_some_maxr (m : Word) : (s.storeMax (some m)).maxr = m := rfl
@[simp] theorem State.storeMax_some_maxv (m : Word) : (s.storeMax (some m)).maxv = true := rfl
@[simp] theorem State.complete_build (res : Result) : (s.complete res).build = s.build := by
  simp [State.complete]
@[simp] theorem State.complete_arg (res : Result) : (s.complete res).arg = s.arg := by
  simp [State.complete]
@[simp] theorem State.complete_done (res : Result) : (s.complete res).done = true := rfl
@[simp] theorem State.complete_err (res : Result) : (s.complete res).err = s.err := by
  simp [State.complete]
@[simp] theorem State.complete_errcode (res : Result) : (s.complete res).errcode = s.errcode := by
  simp [State.complete]
@[simp] theorem State.complete_margin (res : Result) : (s.complete res).margin = s.margin := by
  simp [State.complete]
@[simp] theorem State.complete_errinfo (res : Result) : (s.complete res).errinfo = s.errinfo := by
  simp [State.complete]
@[simp] theorem State.complete_kcoef (res : Result) : (s.complete res).kcoef = s.kcoef := by
  simp [State.complete]
@[simp] theorem State.complete_inflight (res : Result) : (s.complete res).inflight = none := rfl
@[simp] theorem State.complete_agenda (res : Result) : (s.complete res).agenda = s.agenda := by
  simp [State.complete]
@[simp] theorem State.complete_rdata (res : Result) : (s.complete res).rdata = s.rdata := by
  simp [State.complete]
@[simp] theorem State.complete_mem (res : Result) :
    (s.complete res).mem = (s.storePlane res.plane).mem := by simp [State.complete]
@[simp] theorem State.complete_tags (res : Result) :
    (s.complete res).tags = (s.storePlane res.plane).tags := by simp [State.complete]
@[simp] theorem State.complete_maxr (res : Result) :
    (s.complete res).maxr = (s.storeMax res.max).maxr := by
  unfold State.complete State.storeMax; split <;> simp
@[simp] theorem State.complete_maxv (res : Result) :
    (s.complete res).maxv = (s.storeMax res.max).maxv := by
  unfold State.complete State.storeMax; split <;> simp

/-! ### Derived reads -/

@[simp] theorem State.busy_eq : s.busy = s.inflight.isSome := rfl

theorem State.tag_setTag (p q : PlaneNo) (t : Tag) :
    (s.setTag p t).tag q = if q = p then t else s.tag q := by
  unfold State.tag
  simp only [State.setTag_tags, Fin.getElem_fin, Vector.getElem_set]
  by_cases h : p = q
  · subst h; simp
  · have h1 : p.val ≠ q.val := fun e => h (Fin.ext e)
    have h2 : ¬ q = p := fun e => h e.symm
    simp [h1, h2]

theorem State.tag_storePlane (d q : PlaneNo) (t : Tag) (ws : List Word) :
    (s.storePlane (some (d, t, ws))).tag q = if q = d then t else s.tag q :=
  State.tag_setTag s d q t

theorem State.kcoef_setKcoef (i j : Fin 25) (v : Word) :
    (s.setKcoef i v).kcoef[j] = if j = i then v.extractLsb' 0 16 else s.kcoef[j] := by
  simp only [State.setKcoef_kcoef, Fin.getElem_fin, Vector.getElem_set]
  by_cases h : i = j
  · subst h; simp
  · have h1 : i.val ≠ j.val := fun e => h (Fin.ext e)
    have h2 : ¬ j = i := fun e => h e.symm
    simp [h1, h2]

end Sys2Proof.Machine
end

