-- ==== Sys2Proof/Laws/Frames.lean ====
section
/-!
SUPPORT. Laws/Frames.lean: a frame built pixel by pixel has one element per pixel and reads back as the function
that built it.
-/

namespace Sys2Proof.Machine

variable {α β : Type} {b : Build} {out : Nat → Nat → α} {zero : α} {x y : Nat}

@[simp] theorem length_frameOf : (frameOf b out).length = b.size := by simp [frameOf]

/-- The index of a pixel of the frame is an index of the plane (R18). -/
theorem index_lt_size (hx : x < b.width) (hy : y < b.height) : x + y * b.width < b.size := by
  unfold Build.size
  have : (y + 1) * b.width ≤ b.height * b.width := Nat.mul_le_mul_right _ hy
  rw [Nat.mul_comm b.width b.height]
  nlinarith

/-- Column and row of the index of a pixel (R18, R62). -/
theorem index_mod_width (hx : x < b.width) : (x + y * b.width) % b.width = x := by
  rw [Nat.add_mul_mod_self_right, Nat.mod_eq_of_lt hx]

theorem index_div_width (hx : x < b.width) : (x + y * b.width) / b.width = y := by
  rw [Nat.add_mul_div_right _ _ (by omega), Nat.div_eq_of_lt hx, Nat.zero_add]

theorem getElem_frameOf {i : Nat} (h : i < (frameOf b out).length) :
    (frameOf b out)[i] = out (i % b.width) (i / b.width) := by simp [frameOf]

theorem frameAt_frameOf (hx : x < b.width) (hy : y < b.height) :
    frameAt b zero (frameOf b out) x y = out x y := by
  have hi := index_lt_size hx hy
  unfold frameAt
  rw [List.getD_eq_getElem _ _ (by simpa using hi), getElem_frameOf, index_mod_width hx, index_div_width hx]

theorem map_frameOf (f : α → β) : (frameOf b out).map f = frameOf b fun x y => f (out x y) := by
  simp [frameOf]

/-- Two frames built from functions that agree on the pixels of the frame are equal. -/
theorem frameOf_congr {out' : Nat → Nat → α}
    (h : ∀ x y, x < b.width → y < b.height → out x y = out' x y) : frameOf b out = frameOf b out' := by
  refine List.ext_getElem (by simp) fun i h1 h2 => ?_
  rw [getElem_frameOf, getElem_frameOf]
  have hi : i < b.width * b.height := by simpa [Build.size] using h1
  have hw : 0 < b.width := Nat.pos_of_ne_zero fun e => by simp [e] at hi
  exact h _ _ (Nat.mod_lt _ hw) (Nat.div_lt_of_lt_mul hi)

/-- The words of a frame written to a plane read back pixel by pixel. -/
theorem planeWord_storePlane {s : State} {d : PlaneNo} {t : Tag} {ws : Nat → Nat → Word}
    (hx : x < s.build.width) (hy : y < s.build.height) :
    (s.storePlane (some (d, t, frameOf s.build ws))).planeWord d (x + y * s.build.width) = some (ws x y) := by
  have hi := index_lt_size hx hy
  unfold State.planeWord planeAddr
  rw [State.storePlane_some_mem, Memory.readWord_writeWords_self (by simpa using hi), getElem_frameOf,
    index_mod_width hx, index_div_width hx]

end Sys2Proof.Machine
end

