-- ==== Sys2Proof/Laws/Exec.lean ====
section
/-!
SUPPORT. Laws/Exec.lean: what the shared operations `issue` and `perform` can do, and `exec` as one
`perform` per command.
-/

namespace Sys2Proof.Machine

variable {s t : State} {i : Instr} {r : InFlight} {f : Build → InFlight → Result}

/-- The result each command computes from its record, for a law about all of them. -/
def resultOf : Instr → Build → InFlight → Result
  | .conv3 d _ => fun b r => .toPlane d .s32
      (frameOf b fun x y => encodeS32 (convOut 3 (r.kernel 3) r.shift (r.srcU8 b 0) x y))
  | .conv5 d _ => fun b r => .toPlane d .s32
      (frameOf b fun x y => encodeS32 (convOut 5 (r.kernel 5) r.shift (r.srcU8 b 0) x y))
  | .togray d _ => fun b r => .toPlane d .u8 (frameOf b fun x y => encodeU8 (luma (r.srcRgb b 0 x y)))
  | .torgb d _ => fun b r => .toPlane d .rgb
      (frameOf b fun x y => encodeRgb (broadcast (r.srcU8 b 0 x y)))
  | .copy d _ => fun b r => .toPlane d (r.srcTag 0) (frameOf b fun x y => frameAt b 0 (r.srcWords 0) x y)
  | .gauss3 d _ => fun b r => .toPlane d .u8
      (frameOf b fun x y => encodeU8 (gauss3Out (r.srcU8 b 0) x y))
  | .gauss5 d _ => fun b r => .toPlane d .u8
      (frameOf b fun x y => encodeU8 (gauss5Out (r.srcU8 b 0) x y))
  | .sobel d _ => fun b r => .toPlane d .dir
      (frameOf b fun x y => encodeDir (sobelOut b (r.srcU8 b 0) x y))
  | .sobelx d _ => fun b r => .toPlane d .s16
      (frameOf b fun x y => encodeS16 (sobelxOut (r.srcU8 b 0) x y))
  | .sobely d _ => fun b r => .toPlane d .s16
      (frameOf b fun x y => encodeS16 (sobelyOut (r.srcU8 b 0) x y))
  | .edgeNms d _ => fun b r => .toPlane d .u8
      (frameOf b fun x y => encodeU8 (edgeNmsOut b (r.srcDir b 0) x y))
  | .threshold d _ => fun b r => .toPlane d .u8
      (frameOf b fun x y => encodeU8 (thresholdOut r.argInt (r.srcU8 b 0 x y)))
  | .borderZero d _ => fun b r => .toPlane d .u8
      (frameOf b fun x y => encodeU8 (borderZeroOut b r.marginNat (r.srcU8 b 0) x y))
  | .product d _ _ => fun b r => .toPlane d .u16
      (frameOf b fun x y => encodeU16 (productOut (r.srcS16 b 0 x y) (r.srcS16 b 1 x y)))
  | .response d _ _ _ => fun b r => .toPlane d .s32
      (frameOf b fun x y =>
        encodeS32 (responseOut (r.srcU16 b 0 x y) (r.srcU16 b 1 x y) (r.srcU16 b 2 x y)))
  | .globalMax _ => fun b r =>
      { plane := none, max := some (BitVec.ofInt 32 (frameMax b (r.srcS32 b 0))) }
  | .classify d _ => fun b r => .toPlane d .wpix
      (frameOf b fun x y => encodeWPix (classifyOut (r.srcS32 b 0 x y).toInt r.maxInt r.argInt))
  | .cornerNms d _ => fun b r => .toPlane d .wpix
      (frameOf b fun x y => encodeWPix (cornerNmsOut b (r.srcWPix b 0) x y))
  | .canny d _ => fun b r => .toPlane d .rgb
      ((cannyFrame b r.argInt r.marginNat (r.srcRgb b 0)).map encodeRgb)
  | .harris d _ => harrisResult d

/-- Every command is one `perform` with its own result. -/
theorem exec_eq_perform (i : Instr) (s : State) : exec i s = perform i (resultOf i) s := by
  cases i <;> rfl

theorem exec_idle (h : s.inflight = none) : exec i s = issue i s := by
  simp [exec_eq_perform, perform, h]

/-- The command in flight completes with its result. -/
theorem exec_inflight (h : s.inflight = some r) (hi : r.instr = i) :
    exec i s = .next (s.complete (resultOf i s.build r)) := by
  simp [exec_eq_perform, perform, h, hi]

theorem exec_other (h : s.inflight = some r) (hi : r.instr ≠ i) :
    exec i s = .next (s.cmdError .overrun (encode i)) := by
  simp [exec_eq_perform, perform, h, hi]

/-- Issuing to an idle engine has three ends: an error entry, acceptance, or an unwritten source. -/
theorem issue_cases (i : Instr) (s : State) :
    (∃ e, s.issueError i = some e ∧ issue i s = .next (s.cmdError e (encode i))) ∨
    (∃ fs, s.issueError i = none ∧ s.snapshots i.sources = some fs ∧
      issue i s = .next (s.accept (s.record i fs))) ∨
    (s.issueError i = none ∧ s.snapshots i.sources = none ∧ issue i s = .fault .unwrittenSource) := by
  unfold issue
  cases he : s.issueError i with
  | some e => exact .inl ⟨e, rfl, rfl⟩
  | none =>
    cases hs : s.snapshots i.sources with
    | some fs => exact .inr (.inl ⟨fs, rfl, rfl, rfl⟩)
    | none => exact .inr (.inr ⟨rfl, rfl, rfl⟩)

/-- A command passes the checks of R98 exactly under its conditions. -/
theorem issueError_eq_none_iff :
    s.issueError i = none ↔
      i.argOk s.arg = true ∧ i.planes.all (fun p => decide (p.val < s.build.nplanes)) = true ∧
        i.sources.all (fun p => p.2.ok (s.tag p.1)) = true ∧ (i.needsMax = true → s.maxv = true) := by
  unfold State.issueError
  cases i.argOk s.arg <;> cases i.planes.all (fun p => decide (p.val < s.build.nplanes)) <;>
    cases i.sources.all (fun p => p.2.ok (s.tag p.1)) <;> cases i.needsMax <;> cases s.maxv <;> simp

/-- The planes a command uses are in range exactly if it is well formed. -/
theorem wellFormed_eq_planes (b : Build) (i : Instr) :
    i.wellFormed b = i.planes.all (fun p => decide (p.val < b.nplanes)) := by
  cases i <;> simp [Instr.wellFormed, Instr.planes, Instr.dst?, Instr.sources, PlaneNo.inRange,
    Bool.and_assoc]

/-- The destination a command writes at completion is its `DST`, and it writes a whole plane. -/
theorem resultOf_plane (i : Instr) (b : Build) (r : InFlight) :
    (∃ d t ws, i.dst? = some d ∧ (resultOf i b r).plane = some (d, t, ws) ∧ ws.length = b.size) ∨
      (i.dst? = none ∧ (resultOf i b r).plane = none) := by
  cases i with
  | globalMax a => exact .inr ⟨rfl, rfl⟩
  | canny d a => exact .inl ⟨d, _, _, rfl, rfl, by simp [cannyFrame]⟩
  | harris d a => exact .inl ⟨d, _, _, rfl, rfl, by simp [harrisClasses]⟩
  | _ => exact .inl ⟨_, _, _, rfl, rfl, by simp⟩

end Sys2Proof.Machine
end

