-- ==== Sys2Proof/Laws/HostPort.lean ====
section
/-!
SUPPORT. Laws/HostPort.lean: the address map in both directions, and what the accesses of the host, the engine's
turn and a step can do.
-/

namespace Sys2Proof.Machine

variable {s t : State} {b : Build} {a : Word}

/-! ### The address map -/

/-- The offset of a register names it (10_state.md section 2). -/
theorem regAt_offset (r : Reg) : regAt r.offset = some r := by
  cases r with
  | kcoef i => revert i; decide
  | ptype p => revert p; decide
  | _ => rfl

/-- A register found at an offset has that offset. -/
theorem offset_of_regAt {o : Nat} {r : Reg} (h : regAt o = some r) : r.offset = o := by
  simpa using List.find?_some h

/-- No register at an offset: it is the offset of none. -/
theorem regAt_eq_none_iff {o : Nat} : regAt o = none ↔ ∀ r : Reg, r.offset ≠ o := by
  constructor
  · rintro h r rfl
    simp [regAt_offset] at h
  · intro h
    cases hr : regAt o with
    | none => rfl
    | some r => exact absurd (offset_of_regAt hr) (h r)

theorem Reg.offset_lt (r : Reg) : r.offset < 0x1000 := by
  cases r with
  | kcoef i => have := i.isLt; simp [Reg.offset]; omega
  | ptype p => have := p.isLt; simp [Reg.offset]; omega
  | _ => decide

/-- The address of a register names it (R61). -/
theorem targetOf_register (h : a.toNat = r.offset) : targetOf b a = .register r := by
  unfold targetOf
  rw [if_pos (h ▸ r.offset_lt), h, regAt_offset]

theorem legal_size_le (hb : b.legal = true) : b.size ≤ 2 ^ 22 := by
  simp only [Build.legal, Bool.and_eq_true, decide_eq_true_eq] at hb
  exact hb.1.1.2

/-- The address of a backed plane word names it (R62). -/
theorem targetOf_planeWord (hb : b.legal = true) {p : PlaneNo} {i : Nat} (hp : p.val < b.nplanes)
    (hi : i < b.size) (h : a.toNat = planeAddr p i) : targetOf b a = .planeWord p i := by
  have hs := legal_size_le hb
  have := p.isLt
  unfold planeAddr planeBase at h
  have h1 : bits a 31 28 = 1 := by unfold bits; omega
  have h2 : bits a 27 24 = p.val := by unfold bits; omega
  have h3 : bits a 23 2 = i := by unfold bits; omega
  unfold targetOf
  rw [if_neg (by omega), if_pos h1, h2, h3, if_pos ⟨hp, hi⟩]
  congr 1
  exact Fin.ext (Nat.mod_eq_of_lt p.isLt)

/-- A target that is a register is the one whose offset is the address. -/
theorem register_of_targetOf {r : Reg} (h : targetOf b a = .register r) : a.toNat = r.offset := by
  unfold targetOf at h
  split at h
  · split at h
    · rename_i r' hr
      cases h
      exact (offset_of_regAt hr).symm
    · cases h
  · split at h
    · split at h <;> cases h
    · cases h

/-- A target that is a plane word is backed, and an aligned address of it is the word's own. -/
theorem planeWord_of_targetOf {p : PlaneNo} {i : Nat} (h : targetOf b a = .planeWord p i) :
    p.val < b.nplanes ∧ i < b.size ∧ (bits a 1 0 = 0 → a.toNat = planeAddr p i) := by
  unfold targetOf at h
  split at h
  · split at h <;> cases h
  · split at h
    · rename_i h28
      split at h
      · rename_i hpi
        cases h
        have hp : (Fin.ofNat 16 (bits a 27 24)).val = bits a 27 24 := by
          have : bits a 27 24 < 16 := by unfold bits; omega
          exact Nat.mod_eq_of_lt this
        refine ⟨by rw [hp]; exact hpi.1, hpi.2, fun h0 => ?_⟩
        unfold planeAddr planeBase
        rw [hp]
        have := a.isLt
        unfold bits at *
        omega
      · cases h
    · cases h

/-- An address outside every register and every backed plane word is unbacked (R63). -/
theorem targetOf_unbacked (ha : bits a 1 0 = 0) (hr : ∀ r : Reg, a.toNat ≠ r.offset)
    (hw : ∀ (p : PlaneNo) i, p.val < b.nplanes → i < b.size → a.toNat ≠ planeAddr p i) :
    targetOf b a = .unbacked := by
  cases h : targetOf b a with
  | register r => exact absurd (register_of_targetOf h) (hr r)
  | planeWord p i =>
    obtain ⟨hp, hi, he⟩ := planeWord_of_targetOf h
    exact absurd (he ha) (hw p i hp hi)
  | unbacked => rfl

theorem accessRefusal_eq_none_iff {size : Nat} : accessRefusal a size = none ↔ size = 4 ∧ bits a 1 0 = 0 := by
  unfold accessRefusal
  split
  · simp_all
  · split <;> simp_all

/-! ### What a step can do -/

/-- The engine's turn with a command in flight is its completion. -/
theorem engineTurn_inflight {r : InFlight} (h : s.inflight = some r) :
    engineTurn s = .next (s.complete (resultOf r.instr s.build r)) := by
  unfold engineTurn
  rw [h]
  exact exec_inflight h rfl

theorem engineTurn_idle (h : s.inflight = none) : engineTurn s = .next s := by
  unfold engineTurn
  rw [h]

/-- The engine's turn always goes on. -/
theorem engineTurn_next (s : State) : ∃ t, engineTurn s = .next t := by
  cases h : s.inflight with
  | none => exact ⟨s, engineTurn_idle h⟩
  | some r => exact ⟨_, engineTurn_inflight h⟩

/-- Snapshots depend on the memory, the tags and the size of a plane alone. -/
theorem State.snapshots_congr (hm : t.mem = s.mem) (ht : t.tags = s.tags) (hb : t.build = s.build)
    (ps : List (PlaneNo × TagRule)) : t.snapshots ps = s.snapshots ps := by
  induction ps with
  | nil => rfl
  | cons p ps ih => simp only [State.snapshots, ih, State.planeWords, State.tag, hm, ht, hb]

/-- The checks of R98 that need the state raise none of the other errors. -/
theorem issueError_code {i : Instr} {e : ErrCode} (h : s.issueError i = some e) :
    e = .reservedField ∨ e = .planeRange ∨ e = .typeMismatch ∨ e = .noMax := by
  unfold State.issueError at h
  split at h
  · simp_all
  · split at h
    · simp_all
    · split at h
      · simp_all
      · split at h <;> simp_all

/-- What a word written to `CMD` can lead to (R250, R98): it is dropped; it raises an OVERRUN; it raises an error
of its decoding; the command it decodes to is accepted; or a source of that command is unwritten. -/
theorem writeCmd_cases (w : Word) (s : State) :
    (s.err = true ∧ writeCmd w s = .next s) ∨
    (s.err = false ∧ s.busy = true ∧ writeCmd w s = .next (s.cmdError .overrun w)) ∨
    (s.err = false ∧ s.inflight = none ∧ ∃ e v, e ≠ .none ∧ e ≠ .overrun ∧
      (v = w ∨ ∃ i, decode w = .ok i ∧ v = encode i) ∧
      writeCmd w s = .next ({ s with done := false }.cmdError e v)) ∨
    (s.err = false ∧ s.inflight = none ∧ ∃ i fs, decode w = .ok i ∧ s.issueError i = none ∧
      s.snapshots i.sources = some fs ∧
      writeCmd w s = .next ({ s with done := false }.accept (s.record i fs))) ∨
    (s.err = false ∧ s.inflight = none ∧ ∃ i, decode w = .ok i ∧ s.issueError i = none ∧
      s.snapshots i.sources = none ∧ writeCmd w s = .fault .unwrittenSource) := by
  by_cases he : s.err = true
  · exact .inl ⟨he, by unfold writeCmd; rw [if_pos he]⟩
  have he' : s.err = false := Bool.eq_false_iff.mpr he
  by_cases hb : s.busy = true
  · exact .inr (.inl ⟨he', hb, by unfold writeCmd; rw [if_neg he, if_pos hb]⟩)
  have hf : s.inflight = none := by simpa [State.busy] using hb
  rcases hd : decode w with e | i
  · refine .inr (.inr (.inl ⟨he', hf, e.errCode, w, ?_, ?_, .inl rfl, ?_⟩))
    · cases e <;> decide
    · cases e <;> decide
    · unfold writeCmd
      rw [if_neg he, if_neg hb, hd]
  · have hi : writeCmd w s = issue i { s with done := false } := by
      unfold writeCmd
      rw [if_neg he, if_neg hb, hd]
      exact exec_idle hf
    have hs := State.snapshots_congr (s := s) (t := { s with done := false }) rfl rfl rfl i.sources
    rcases issue_cases i { s with done := false } with ⟨e, h1, h2⟩ | ⟨fs, h1, h2, h3⟩ | ⟨h1, h2, h3⟩
    · refine .inr (.inr (.inl ⟨he', hf, e, encode i, ?_, ?_, .inr ⟨i, rfl, rfl⟩, hi.trans h2⟩)) <;>
        rcases issueError_code h1 with rfl | rfl | rfl | rfl <;> decide
    · exact .inr (.inr (.inr (.inl ⟨he', hf, i, fs, rfl, h1, hs ▸ h2, hi.trans h3⟩)))
    · exact .inr (.inr (.inr (.inr ⟨he', hf, i, rfl, h1, hs ▸ h2, hi.trans h3⟩)))

/-- What one step of a legal build can do when it goes on: hard reset; the engine's turn; a read that answers;
the end of a wait; a plane word written on an idle block; or a register written. -/
theorem step_cases (h : step s = .next t) :
    s.build.legal = true ∧
    ((∃ rest, s.agenda = .hardReset :: rest ∧ t = (s.advance rest).hardReset) ∨
    (∃ rest, (s.agenda = [] ∧ rest = [] ∨ s.agenda = .engine :: rest ∨
        ∃ tail, s.agenda = .wait :: tail ∧ rest = s.agenda ∧ s.busy = true) ∧
      engineTurn (s.advance rest) = .next t) ∨
    (∃ rest v, (s.agenda = .wait :: rest ∨ ∃ a size, s.agenda = .read a size :: rest) ∧
      t = (s.advance rest).answer v) ∨
    (∃ rest a v, s.agenda = .write a 4 v :: rest ∧
      (t = s.advance rest ∨
        (∃ p i, s.busy = false ∧ targetOf s.build a = .planeWord p i ∧
          t = { s.advance rest with mem := s.mem.writeWord (planeAddr p i) v }) ∨
        ∃ r, targetOf s.build a = .register r ∧ writeReg v (s.advance rest) r = .next t))) := by
  unfold step at h
  split at h
  case isFalse => cases h
  case isTrue hl =>
  refine ⟨hl, ?_⟩
  unfold takeTurn at h
  split at h
  case h_1 ha => exact .inr (.inl ⟨[], .inl ⟨ha, rfl⟩, h⟩)
  case h_2 a size rest ha =>
    refine .inr (.inr (.inl ?_))
    unfold hostRead at h
    split at h
    · cases h
    · split at h
      · cases h; exact ⟨rest, _, .inr ⟨a, size, ha⟩, rfl⟩
      · cases h; exact ⟨rest, _, .inr ⟨a, size, ha⟩, rfl⟩
      · split at h
        · cases h
        · split at h
          · cases h; exact ⟨rest, _, .inr ⟨a, size, ha⟩, rfl⟩
          · cases h
  case h_3 a size v rest ha =>
    refine .inr (.inr (.inr ?_))
    unfold hostWrite at h
    split at h
    · cases h
    · rename_i hr
      obtain rfl := (accessRefusal_eq_none_iff.mp hr).1
      refine ⟨rest, a, v, ha, ?_⟩
      split at h
      · cases h; exact .inl rfl
      · rename_i r htgt
        exact .inr (.inr ⟨r, htgt, h⟩)
      · rename_i p i htgt
        split at h
        · cases h
        · rename_i hb
          cases h
          exact .inr (.inl ⟨p, i, Bool.eq_false_iff.mpr hb, htgt, rfl⟩)
  case h_4 rest ha =>
    unfold waitTurn at h
    split at h
    · rename_i hb
      exact .inr (.inl ⟨s.agenda, .inr (.inr ⟨rest, ha, rfl, hb⟩), h⟩)
    · cases h
      exact .inr (.inr (.inl ⟨rest, _, .inl ha, rfl⟩))
  case h_5 rest ha => exact .inr (.inl ⟨rest, .inr (.inl ha), h⟩)
  case h_6 rest ha =>
    cases h
    exact .inl ⟨rest, ha, rfl⟩

/-! ### One access of the host -/

theorem step_read (hb : s.build.legal = true) {size : Nat} {rest : List Event} :
    step { s with agenda := .read a size :: rest } = hostRead a size { s with agenda := rest, rdata := none } := by
  unfold step
  rw [if_pos hb]
  rfl

theorem step_write (hb : s.build.legal = true) {size : Nat} {v : Word} {rest : List Event} :
    step { s with agenda := .write a size v :: rest } =
      hostWrite a size v { s with agenda := rest, rdata := none } := by
  unfold step
  rw [if_pos hb]
  rfl

/-- Every register is at a word address. -/
theorem accessRefusal_offset {r : Reg} (h : a.toNat = r.offset) : accessRefusal a 4 = none := by
  have : r.offset % 4 = 0 := by cases r <;> simp [Reg.offset]
  exact accessRefusal_eq_none_iff.mpr ⟨rfl, by unfold bits; omega⟩

/-- A read at a register's address answers with the register (20_memory.md). -/
theorem hostRead_register {r : Reg} (h : a.toNat = r.offset) :
    hostRead a 4 s = .next (s.answer (s.readReg r)) := by
  unfold hostRead
  rw [accessRefusal_offset h]
  simp only [targetOf_register h]

/-- A write at a register's address writes the register. -/
theorem hostWrite_register {r : Reg} {v : Word} (h : a.toNat = r.offset) :
    hostWrite a 4 v s = writeReg v s r := by
  unfold hostWrite
  rw [accessRefusal_offset h]
  simp only [targetOf_register h]

/-- A read of a written plane word on an idle block answers with it. -/
theorem hostRead_planeWord {p : PlaneNo} {i : Nat} {w : Word} (hf : s.inflight = none)
    (ha : accessRefusal a 4 = none) (ht : targetOf s.build a = .planeWord p i)
    (hw : s.planeWord p i = some w) : hostRead a 4 s = .next (s.answer w) := by
  unfold hostRead
  rw [ha]
  dsimp only
  rw [ht]
  dsimp only
  rw [if_neg (by simp [State.busy, hf]), hw]

/-- A read of an unwritten plane word on an idle block is the fault of R30. -/
theorem hostRead_unwritten {p : PlaneNo} {i : Nat} (hf : s.inflight = none)
    (ha : accessRefusal a 4 = none) (ht : targetOf s.build a = .planeWord p i)
    (hw : s.planeWord p i = none) : hostRead a 4 s = .fault .unwrittenRead := by
  unfold hostRead
  rw [ha]
  dsimp only
  rw [ht]
  dsimp only
  rw [if_neg (by simp [State.busy, hf]), hw]

/-- A write of a plane word on an idle block stores it (R62). -/
theorem hostWrite_planeWord {p : PlaneNo} {i : Nat} {v : Word} (hf : s.inflight = none)
    (ha : accessRefusal a 4 = none) (ht : targetOf s.build a = .planeWord p i) :
    hostWrite a 4 v s = .next { s with mem := s.mem.writeWord (planeAddr p i) v } := by
  unfold hostWrite
  rw [ha]
  dsimp only
  rw [ht]
  dsimp only
  rw [if_neg (by simp [State.busy, hf])]

/-! ### Runs -/

/-- A run whose first step goes on is the rest of the run from the next state. -/
theorem run_of_next {M : Host.Core} {k : Nat} {s t : M.State} (h : M.step s = .next t) :
    M.run (k + 1) s = M.run k t := by
  rw [Host.Core.run, h]

end Sys2Proof.Machine
end

