-- ==== Sys2Proof/Laws/PerInstr.lean ====
section
/-!
SUPPORT. Laws/PerInstr.lean: laws stated of every command as syntax, one lemma per constructor of `Instr`.
-/

namespace Sys2Proof.Laws.EncodedFields

open Sys2Proof

/-- The word of a command has the command's opcode in OP, its destination (or 0) in DST, its sources (and 0
behind them) in SRC1 to SRC3, and 0 in RSV (30_encoding.md R91, R92). -/
def Statement (i : Instr) : Prop :=
  bits (encode i) 7 0 = i.opcode ∧ bits (encode i) 31 24 = 0 ∧
    planeField (encode i) 8 = i.dst?.getD 0 ∧
    [planeField (encode i) 12, planeField (encode i) 16, planeField (encode i) 20] =
      (i.sources.map Prod.fst ++ [0, 0, 0]).take 3

/-- The fields of a word made by `encodeFields`. -/
theorem encodeFields_fields {op : Nat} (hop : op < 256) (d a b c : PlaneNo) :
    bits (encodeFields op d a b c) 7 0 = op ∧ bits (encodeFields op d a b c) 31 24 = 0 ∧
      planeField (encodeFields op d a b c) 8 = d ∧ planeField (encodeFields op d a b c) 12 = a ∧
      planeField (encodeFields op d a b c) 16 = b ∧ planeField (encodeFields op d a b c) 20 = c := by
  have hd := d.isLt
  have ha := a.isLt
  have hb := b.isLt
  have hc := c.isLt
  have hn : (encodeFields op d a b c).toNat =
      op + 2 ^ 8 * d.val + 2 ^ 12 * a.val + 2 ^ 16 * b.val + 2 ^ 20 * c.val := by
    unfold encodeFields
    rw [BitVec.toNat_ofNat, Nat.mod_eq_of_lt (by omega)]
  refine ⟨?_, ?_, ?_, ?_, ?_, ?_⟩
  · simp only [bits, hn]; omega
  · simp only [bits, hn]; omega
  · apply Fin.ext; simp only [planeField, Fin.val_ofNat, bits, hn]; omega
  · apply Fin.ext; simp only [planeField, Fin.val_ofNat, bits, hn]; omega
  · apply Fin.ext; simp only [planeField, Fin.val_ofNat, bits, hn]; omega
  · apply Fin.ext; simp only [planeField, Fin.val_ofNat, bits, hn]; omega

theorem opcode_lt (i : Instr) : i.opcode < 256 := by cases i <;> simp [Instr.opcode]

theorem of_encodeFields {i : Instr} {d a b c : PlaneNo}
    (he : encode i = encodeFields i.opcode d a b c) (hd : i.dst?.getD 0 = d)
    (hs : (i.sources.map Prod.fst ++ [0, 0, 0]).take 3 = [a, b, c]) : Statement i := by
  obtain ⟨h1, h2, h3, h4, h5, h6⟩ := encodeFields_fields (opcode_lt i) d a b c
  unfold Statement
  rw [he, h1, h2, h3, h4, h5, h6, hd, hs]
  exact ⟨rfl, rfl, rfl, rfl⟩

theorem conv3 (d a : PlaneNo) : Statement (.conv3 d a) := of_encodeFields rfl rfl rfl
theorem conv5 (d a : PlaneNo) : Statement (.conv5 d a) := of_encodeFields rfl rfl rfl
theorem togray (d a : PlaneNo) : Statement (.togray d a) := of_encodeFields rfl rfl rfl
theorem torgb (d a : PlaneNo) : Statement (.torgb d a) := of_encodeFields rfl rfl rfl
theorem copy (d a : PlaneNo) : Statement (.copy d a) := of_encodeFields rfl rfl rfl
theorem gauss3 (d a : PlaneNo) : Statement (.gauss3 d a) := of_encodeFields rfl rfl rfl
theorem gauss5 (d a : PlaneNo) : Statement (.gauss5 d a) := of_encodeFields rfl rfl rfl
theorem sobel (d a : PlaneNo) : Statement (.sobel d a) := of_encodeFields rfl rfl rfl
theorem sobelx (d a : PlaneNo) : Statement (.sobelx d a) := of_encodeFields rfl rfl rfl
theorem sobely (d a : PlaneNo) : Statement (.sobely d a) := of_encodeFields rfl rfl rfl
theorem edgeNms (d a : PlaneNo) : Statement (.edgeNms d a) := of_encodeFields rfl rfl rfl
theorem threshold (d a : PlaneNo) : Statement (.threshold d a) := of_encodeFields rfl rfl rfl
theorem borderZero (d a : PlaneNo) : Statement (.borderZero d a) := of_encodeFields rfl rfl rfl
theorem product (d a b : PlaneNo) : Statement (.product d a b) := of_encodeFields rfl rfl rfl
theorem response (d a b c : PlaneNo) : Statement (.response d a b c) := of_encodeFields rfl rfl rfl
theorem globalMax (a : PlaneNo) : Statement (.globalMax a) := of_encodeFields rfl rfl rfl
theorem classify (d a : PlaneNo) : Statement (.classify d a) := of_encodeFields rfl rfl rfl
theorem cornerNms (d a : PlaneNo) : Statement (.cornerNms d a) := of_encodeFields rfl rfl rfl
theorem canny (d a : PlaneNo) : Statement (.canny d a) := of_encodeFields rfl rfl rfl
theorem harris (d a : PlaneNo) : Statement (.harris d a) := of_encodeFields rfl rfl rfl

/-- Every command's word has the command's fields. -/
theorem all (i : Instr) : Statement i := by
  cases i with
  | conv3 d a => exact EncodedFields.conv3 d a
  | conv5 d a => exact EncodedFields.conv5 d a
  | togray d a => exact EncodedFields.togray d a
  | torgb d a => exact EncodedFields.torgb d a
  | copy d a => exact EncodedFields.copy d a
  | gauss3 d a => exact EncodedFields.gauss3 d a
  | gauss5 d a => exact EncodedFields.gauss5 d a
  | sobel d a => exact EncodedFields.sobel d a
  | sobelx d a => exact EncodedFields.sobelx d a
  | sobely d a => exact EncodedFields.sobely d a
  | edgeNms d a => exact EncodedFields.edgeNms d a
  | threshold d a => exact EncodedFields.threshold d a
  | borderZero d a => exact EncodedFields.borderZero d a
  | product d a b => exact EncodedFields.product d a b
  | response d a b c => exact EncodedFields.response d a b c
  | globalMax a => exact EncodedFields.globalMax a
  | classify d a => exact EncodedFields.classify d a
  | cornerNms d a => exact EncodedFields.cornerNms d a
  | canny d a => exact EncodedFields.canny d a
  | harris d a => exact EncodedFields.harris d a

end Sys2Proof.Laws.EncodedFields
end

