-- ==== Sys2Proof/Tests/Slice0.lean ====
section
/-!
SUPPORT. Tests/Slice0.lean: checks of the model on values from the spec, and for each statement with hypotheses
a state and operands that meet them. Expected values come from spec/95_test_vectors.md (its vector names stand in
the comments) or are written out from the rule named.
-/

namespace Sys2Proof.Tests

open Sys2Proof
open Sys2Proof.Machine

set_option maxRecDepth 20000

/-! ### Small builds and states -/

def b6 : Build := ⟨6, 6, 16⟩
def b6x8 : Build := ⟨6, 6, 8⟩
def b7 : Build := ⟨7, 7, 16⟩
def b8 : Build := ⟨8, 8, 16⟩
def b11 : Build := ⟨11, 11, 16⟩

/-- The next state of an outcome; the reset state if there is none. -/
def nextOf (o : Host.Outcome State Fault Refusal) : State :=
  match o with
  | .next t => t
  | .fault _ => State.reset
  | .refused _ => State.reset

/-- The outcome is a refusal for the reason given. -/
def refusedWith (o : Host.Outcome State Fault Refusal) (r : Refusal) : Bool :=
  match o with
  | .refused q => decide (q = r)
  | .next _ => false
  | .fault _ => false

/-- The outcome is a fault for the reason given. -/
def faultsWith (o : Host.Outcome State Fault Refusal) (r : Fault) : Bool :=
  match o with
  | .fault q => decide (q = r)
  | .next _ => false
  | .refused _ => false

/-- A record of command `i` over the given sources. -/
def recordOf (i : Instr) (arg : Word) (sources : List Snapshot) : InFlight :=
  { instr := i, arg := arg, margin := 5, kcoef := Vector.replicate 25 0, maxr := 0, maxv := false,
    sources := sources }

/-- A state of build `b` with record `r` in flight. -/
def flying (b : Build) (r : InFlight) : State := { State.resetOf b with inflight := some r }

/-- A snapshot of a frame given pixel by pixel. -/
def shot (b : Build) (t : Tag) (f : Nat → Nat → Word) : Snapshot := ⟨t, frameOf b f⟩

/-- The word that completing record `r` leaves at pixel `(x, y)` of plane `p`. -/
def doneWord (b : Build) (r : InFlight) (p : PlaneNo) (x y : Nat) : Option Word :=
  (nextOf (exec r.instr (flying b r))).planeWord p (x + y * b.width)

/-- A frame that holds `v` at one pixel and 0 elsewhere. -/
def spot (x₀ y₀ : Nat) (v : Word) (x y : Nat) : Word := if x = x₀ ∧ y = y₀ then v else 0

/-- Coefficients from a list, 0 behind its end. -/
def coefs (l : List Int) : Vector (BitVec 16) 25 := Vector.ofFn fun i => BitVec.ofInt 16 (l.getD i.val 0)

/-! ### Well-formedness: every plane field of every command is checked against the build (R92) -/

theorem test_ill_formed_two_planes :
    ([Instr.conv3 8 0, .conv3 0 8, .conv5 8 0, .conv5 0 8, .togray 8 0, .togray 0 8, .torgb 8 0,
      .torgb 0 8, .copy 8 0, .copy 0 8, .gauss3 8 0, .gauss3 0 8, .gauss5 8 0, .gauss5 0 8] ++
     [Instr.sobel 8 0, .sobel 0 8, .sobelx 8 0, .sobelx 0 8, .sobely 8 0, .sobely 0 8, .edgeNms 8 0,
      .edgeNms 0 8, .threshold 8 0, .threshold 0 8, .borderZero 8 0, .borderZero 0 8] ++
     [Instr.classify 8 0, .classify 0 8, .cornerNms 8 0, .cornerNms 0 8, .canny 8 0, .canny 0 8, .harris 8 0,
      .harris 0 8]).all (fun i => !i.wellFormed b6x8) = true := by decide

theorem test_ill_formed_other_shapes :
    [Instr.product 8 0 0, .product 0 8 0, .product 0 0 8, .response 8 0 0 0, .response 0 8 0 0,
     .response 0 0 8 0, .response 0 0 0 8, .globalMax 8].all (fun i => !i.wellFormed b6x8) = true := by decide

theorem test_well_formed : (Instr.response 7 4 5 6).wellFormed b6x8 = true := by decide

/-! ### Decoding: words from vectors E1 to E12 and programs P2, P3, or from the fields of R91 -/

theorem test_decode_conversion :
    decode 0x00000101 = .ok (.togray 1 0) ∧ decode 0x00006702 = .ok (.torgb 7 6) ∧
    decode 0x0000FF08 = .ok (.copy 15 15) := by decide

theorem test_decode_window :
    decode 0x00000110 = .ok (.conv3 1 0) ∧ decode 0x00003211 = .ok (.conv5 2 3) ∧
    decode 0x00001212 = .ok (.gauss3 2 1) ∧ decode 0x00009A13 = .ok (.gauss5 10 9) := by decide

theorem test_decode_gradient :
    decode 0x00002320 = .ok (.sobel 3 2) ∧ decode 0x00002321 = .ok (.sobelx 3 2) ∧
    decode 0x00002422 = .ok (.sobely 4 2) := by decide

theorem test_decode_edge :
    decode 0x00003430 = .ok (.edgeNms 4 3) ∧ decode 0x00004531 = .ok (.threshold 5 4) ∧
    decode 0x00005632 = .ok (.borderZero 6 5) := by decide

theorem test_decode_corner :
    decode 0x00043540 = .ok (.product 5 3 4) ∧ decode 0x00654741 = .ok (.response 7 4 5 6) ∧
    decode 0x00007042 = .ok (.globalMax 7) ∧ decode 0x00008943 = .ok (.classify 9 8) ∧
    decode 0x00009A44 = .ok (.cornerNms 10 9) := by decide

theorem test_decode_composite :
    decode 0x00000150 = .ok (.canny 1 0) ∧ decode 0x00000151 = .ok (.harris 1 0) := by decide

/-- TOGRAY p1, p0 bit by bit: RSV, SRC3, SRC2, SRC1 = 0, DST = 1, OP = 1 (R91). -/
theorem test_decode_bits : decode 0b00000000_0000_0000_0000_0001_00000001 = .ok (.togray 1 0) := by decide

/-- E13 to E17, E21. -/
theorem test_decode_rejects :
    decode 0x00000000 = .error .illegalOpcode ∧ decode 0x00000103 = .error .illegalOpcode ∧
    decode 0x000001FF = .error .illegalOpcode ∧ decode 0x01000101 = .error .reservedField ∧
    decode 0x00010101 = .error .reservedField ∧ decode 0x00001142 = .error .reservedField := by decide

/-- No word matches two rows of the opcode table. -/
theorem test_opcode_rows_disjoint :
    opcodeTable.Pairwise fun p q => (p.pattern ^^^ q.pattern) &&& (p.mask &&& q.mask) ≠ 0 := by decide

theorem test_table_word : decodeTableWord 32 0x00654741 = some (.response 7 4 5 6) := by decide

/-! ### First step after reset, errors, resets, registers -/

/-- E2 after reset: the step runs it, and as no plane has a tag it records TYPE_MISMATCH. -/
theorem test_first_step_after_reset :
    (nextOf (step (State.reset.withFetchWord 32 0x1212))).statusWord = 0x504 := by decide

/-- E20: RESERVED_FIELD, not PLANE_RANGE. -/
theorem test_error_priority :
    (nextOf (writeCmd 0x0100F043 (State.resetOf b6x8))).errcode = .reservedField := by decide

/-- E19: PLANE_RANGE with 8 planes. -/
theorem test_plane_range : (nextOf (writeCmd 0x00000801 (State.resetOf b6x8))).errcode = .planeRange := by decide

/-- E18: `ARG = 32` for CONV3. -/
theorem test_conv_arg :
    (nextOf (writeCmd 0x00000110 { State.resetOf b6 with arg := 32 })).errcode = .reservedField := by decide

/-- X6: DECIDE before a maximum. -/
theorem test_no_max :
    (nextOf (writeCmd 0x00001243 ((State.resetOf b6).setTag 1 .s32))).statusWord = 0x604 := by decide

/-- X7: OVERRUN. -/
theorem test_overrun :
    (nextOf (writeCmd 0xABCD (flying b6 (recordOf (.copy 1 0) 0 [])))).statusWord = 0x105 := by decide

/-- X12: RESERVED_FIELD with `MAXV = 1`, DONE cleared. -/
theorem test_done_cleared :
    (nextOf (writeCmd 0x00012344 { State.resetOf b6 with maxv := true, done := true })).statusWord = 0x30C := by
  decide

/-- V1 to V5: registers after reset. -/
theorem test_reset_registers :
    [Reg.margin, .hkconst, .hlow, .nplanes, .ptype 3].map (State.resetOf b6).readReg =
      [5, 0xA3D, 0x2A, 0x10, 0] := by decide

/-- V6, V7: `PTYPE` codes. -/
theorem test_ptype_codes :
    ((State.resetOf b6).setPtype 3 0x9).readReg (.ptype 3) = 0 ∧
    ((State.resetOf b6).setPtype 3 0xFFFFFFF2).readReg (.ptype 3) = 2 := by decide

/-- V8: `KCOEF` sign extension. -/
theorem test_kcoef : ((State.resetOf b6).setKcoef 0 0x0001FFFE).readReg (.kcoef 0) = 0xFFFFFFFE := by decide

/-- V9, V12: the unwritten word and the misaligned access. -/
theorem test_port_stops :
    faultsWith (hostRead 0x10000000 4 (State.resetOf b6)) .unwrittenRead = true ∧
    refusedWith (hostRead 0x10000002 4 (State.resetOf b6)) .misaligned = true ∧
    refusedWith (hostRead 0x10000000 1 (State.resetOf b6)) .accessSize = true := by decide

/-- V10: a written word reads back as it is; V11: an unmapped register reads 0. -/
theorem test_port_words :
    (nextOf (hostRead 0x10000000 4 (nextOf (hostWrite 0x10000000 4 0x12345678 (State.resetOf b6))))).rdata =
      some 0x12345678 ∧
    (nextOf (hostRead 0x030 4 (State.resetOf b6))).rdata = some 0 := by decide

/-- R62: word 35 of plane 15 is backed in a 6×6 build, word 36 is not. -/
theorem test_address_map :
    targetOf b6 0x1F00008C = .planeWord 15 35 ∧ targetOf b6 0x1F000090 = .unbacked ∧
    targetOf b6x8 0x18000000 = .unbacked ∧ targetOf b6 0x0000023C = .register (.ptype 15) := by decide

/-- R281, X10: soft reset while COPY is in flight leaves its destination unwritten and keeps other planes. -/
theorem test_soft_reset_aborts :
    let s := { flying b6 (recordOf (.copy 1 0) 0 []) with
      mem := (Memory.writeWord [] (planeAddr 0 0) 7).writeWord (planeAddr 1 0) 9 }
    s.softReset.planeWord 0 0 = some 7 ∧ s.softReset.planeWord 1 0 = none ∧ s.softReset.busy = false := by decide

/-- R115, R117: the text of a command line. -/
theorem test_asm_text :
    (AsmLine.command (.response 7 4 5 6) none).text = "RESPONSE p7, p4, p5, p6" ∧
    (AsmLine.command (.canny 1 0) (some 100)).text = "CANNY p1, p0, #100" := by decide

/-- P1 and P2: lines as the spec writes them, and one whose `#imm` its command does not allow. -/
theorem test_asm_read :
    readProgram ["    SETTYPE p0, RGB         ; MemWrite(0x200, 4, 1)", "; comment", "CANNY p1, p0, #0x64"] =
      some [.setType 0 .rgb, .command (.canny 1 0) (some 100)] ∧
    readLine "PUT p0, #8, #10, #0x00C8C8C8" = some (.put 0 8 10 0x00C8C8C8) ∧
    readLine "RESPONSE p8, p5, p6, p7" = some (.command (.response 8 5 6 7) none) ∧
    readLine "SETK #24, #-1" = some (.setK 24 (-1)) ∧ readLine "TOGRAY p1, p0, #1" = none ∧
    readLine "COPY p16, p0" = none := by decide

/-- P1: the host accesses of `CANNY p1, p0, #100`. -/
theorem test_asm_expand :
    (AsmLine.command (.canny 1 0) (some 100)).expand b6 =
      [.write 0x004 4 0x64, .write 0x000 4 0x00000150, .wait] := by decide

/-! ### One or two values per command -/

/-- W1 at `(1, 1)`; W3 at `(2, 2)`. -/
theorem test_conv3 :
    doneWord b6 { recordOf (.conv3 1 0) 4 [shot b6 .u8 fun _ _ => 100] with
      kcoef := coefs [1, 2, 1, 2, 4, 2, 1, 2, 1] } 1 1 1 = some 56 ∧
    doneWord b6 { recordOf (.conv3 1 0) 1 [shot b6 .u8 (spot 0 0 1)] with kcoef := coefs [-1] } 1 2 2 =
      some 0xFFFFFFFF := by decide

/-- W2 at `(4, 5)`; W5 at `(4, 4)`. -/
theorem test_conv5 :
    doneWord b6 { recordOf (.conv5 1 0) 0 [shot b6 .u8 (spot 2 3 77)] with
      kcoef := coefs [0, 0, 0, 0, 0, 0, 0, 0, 0, 0, 0, 0, 1] } 1 4 5 = some 77 ∧
    doneWord b6 { recordOf (.conv5 1 0) 31 [shot b6 .u8 (spot 0 0 255)] with kcoef := coefs [-32768] } 1 4 4 =
      some 0xFFFFFFFF := by decide

/-- W7, W8. -/
theorem test_togray :
    doneWord b6 (recordOf (.togray 1 0) 0 [shot b6 .rgb fun _ _ => 0x001E140A]) 1 0 0 = some 18 ∧
    doneWord b6 (recordOf (.togray 1 0) 0 [shot b6 .rgb fun _ _ => 0xFF64C832]) 1 5 5 = some 143 := by decide

/-- W9. -/
theorem test_torgb :
    doneWord b6 (recordOf (.torgb 1 0) 0 [shot b6 .u8 fun _ _ => 0x7F]) 1 3 2 = some 0x007F7F7F := by decide

/-- W10. -/
theorem test_copy :
    doneWord b6 (recordOf (.copy 4 3) 0 [shot b6 .s16 (spot 0 0 0x0001FFFF)]) 4 0 0 = some 0x0001FFFF ∧
    (nextOf (exec (.copy 4 3) (flying b6 (recordOf (.copy 4 3) 0 [shot b6 .s16 (spot 0 0 1)])))).tag 4 =
      .s16 := by decide

/-- W11 at `(2, 1)` and `(1, 1)`. -/
theorem test_gauss3 :
    doneWord b6 (recordOf (.gauss3 1 0) 0 [shot b6 .u8 fun _ _ => 100]) 1 2 1 = some 75 ∧
    doneWord b6 (recordOf (.gauss3 1 0) 0 [shot b6 .u8 fun _ _ => 100]) 1 1 1 = some 56 := by decide

/-- W12 at `(3, 3)` and `(2, 2)`. -/
theorem test_gauss5 :
    doneWord b6 (recordOf (.gauss5 1 0) 0 [shot b6 .u8 fun _ _ => 100]) 1 3 3 = some 87 ∧
    doneWord b6 (recordOf (.gauss5 1 0) 0 [shot b6 .u8 fun _ _ => 100]) 1 2 2 = some 47 := by decide

/-- The window of G20 at rows and columns 1 to 3. -/
def g20 (x y : Nat) : Word := BitVec.ofNat 32 (30 * (y - 1) + 10 * x)

/-- G20 inside the band of a 7×7 frame; G23 outside the band of a 6×6 frame. -/
theorem test_sobel :
    doneWord b7 (recordOf (.sobel 1 0) 0 [shot b7 .u8 g20]) 1 3 3 = some 0x000002FD ∧
    doneWord b6 (recordOf (.sobel 1 0) 0 [shot b6 .u8 g20]) 1 3 3 = some 0x00000200 := by decide

/-- The step edge of section 2.5: -800 at `(4, 2)`, -600 at `(5, 1)`. -/
theorem test_sobelx :
    doneWord b8 (recordOf (.sobelx 1 0) 0 [shot b8 .u8 fun x _ => if x < 4 then 0 else 200]) 1 4 2 =
      some (BitVec.ofInt 32 (-800)) ∧
    doneWord b8 (recordOf (.sobelx 1 0) 0 [shot b8 .u8 fun x _ => if x < 4 then 0 else 200]) 1 5 1 =
      some (BitVec.ofInt 32 (-600)) := by decide

/-- The step edge of section 2.5, transposed. -/
theorem test_sobely :
    doneWord b8 (recordOf (.sobely 1 0) 0 [shot b8 .u8 fun _ y => if y < 4 then 0 else 200]) 1 2 4 =
      some (BitVec.ofInt 32 (-800)) ∧
    doneWord b8 (recordOf (.sobely 1 0) 0 [shot b8 .u8 fun _ y => if y < 4 then 0 else 200]) 1 0 5 =
      some (BitVec.ofInt 32 (-200)) := by decide

/-- N1: the tie with the left neighbour keeps 100; N2: the top neighbour 101 suppresses 100. -/
theorem test_edge_nms :
    doneWord b7 (recordOf (.edgeNms 1 0) 0 [shot b7 .dir fun x y =>
      if x = 2 ∧ y = 2 then 0x064 else if x = 1 ∧ y = 2 then 0x164 else if x = 3 ∧ y = 2 then 0x263
      else 0]) 1 3 3 = some 100 ∧
    doneWord b7 (recordOf (.edgeNms 1 0) 0 [shot b7 .dir fun x y =>
      if x = 2 ∧ y = 2 then 0x264 else if x = 2 ∧ y = 1 then 0x065 else 0]) 1 3 3 = some 0 := by decide

/-- Section 2.6: `thr = 128` on 127 and `thr = -1` on 0. -/
theorem test_threshold :
    doneWord b6 (recordOf (.threshold 1 0) 128 [shot b6 .u8 fun _ _ => 127]) 1 0 0 = some 0 ∧
    doneWord b6 (recordOf (.threshold 1 0) 0xFFFFFFFF [shot b6 .u8 fun _ _ => 0]) 1 0 0 = some 255 := by decide

/-- Section 2.6: on 7×7 the margin 3 keeps `(3, 3)`; the margin `0xFFFF_FFFF` does not wrap. -/
theorem test_border_zero :
    doneWord b7 { recordOf (.borderZero 1 0) 0 [shot b7 .u8 fun _ _ => 9] with margin := 3 } 1 3 3 = some 9 ∧
    doneWord b7 { recordOf (.borderZero 1 0) 0 [shot b7 .u8 fun _ _ => 9] with margin := 0xFFFFFFFF } 1 3 3 =
      some 0 := by decide

/-- R201: `(300, -200)` gives `Ixy = 5536`; `(-1, 1)` gives 65535. -/
theorem test_product :
    doneWord b6 (recordOf (.product 2 0 1) 0 [shot b6 .s16 fun _ _ => 300,
      shot b6 .s16 fun _ _ => 0xFFFFFF38]) 2 0 0 = some 5536 ∧
    doneWord b6 (recordOf (.product 2 0 1) 0 [shot b6 .s16 fun _ _ => 0xFFFFFFFF,
      shot b6 .s16 fun _ _ => 1]) 2 0 0 = some 65535 := by decide

/-- R205: `(300, 200, 100)` and the wrapped `(0, 0, 65535)`. -/
theorem test_response :
    doneWord b6 (recordOf (.response 3 0 1 2) 0 [shot b6 .u16 fun _ _ => 300, shot b6 .u16 fun _ _ => 200,
      shot b6 .u16 fun _ _ => 100]) 3 1 1 = some 40001 ∧
    doneWord b6 (recordOf (.response 3 0 1 2) 0 [shot b6 .u16 fun _ _ => 0, shot b6 .u16 fun _ _ => 0,
      shot b6 .u16 fun _ _ => 65535]) 3 1 1 = some 131071 := by decide

/-- R210: a frame of all -400, and one of -9 with a 17. -/
theorem test_global_max :
    (nextOf (exec (.globalMax 0)
      (flying b6 (recordOf (.globalMax 0) 0 [shot b6 .s32 fun _ _ => 0xFFFFFE70])))).maxr = 0xFFFFFE70 ∧
    (nextOf (exec (.globalMax 0) (flying b6 (recordOf (.globalMax 0) 0
      [shot b6 .s32 fun x y => if x = 3 ∧ y = 5 then 17 else 0xFFFFFFF7])))).maxr = 17 := by decide

/-- R214: `(41, 5000, 4500)` and `(1000, 5000, 4500)`. -/
theorem test_decide :
    doneWord b6 { recordOf (.classify 1 0) 4500 [shot b6 .s32 fun _ _ => 41] with maxr := 5000 } 1 0 0 =
      some 0x0001FFFF ∧
    doneWord b6 { recordOf (.classify 1 0) 4500 [shot b6 .s32 fun _ _ => 1000] with maxr := 5000 } 1 0 0 =
      some 0x00020003 := by decide

/-- R218 at `(5, 5)`, centre `(3, 3)`: a larger corner demotes, a larger edge does not. -/
theorem test_corner_nms :
    doneWord b11 (recordOf (.cornerNms 1 0) 0 [shot b11 .wpix fun x y =>
      if x = 3 ∧ y = 3 then 0x00020005 else if x = 1 ∧ y = 5 then 0x00020007 else 0]) 1 5 5 = some 0 ∧
    doneWord b11 (recordOf (.cornerNms 1 0) 0 [shot b11 .wpix fun x y =>
      if x = 3 ∧ y = 3 then 0x00020005 else if x = 1 ∧ y = 5 then 0x00010384 else 0]) 1 5 5 =
      some 0x00020005 := by decide

/-- R232: on a black frame, white inside the margin for `thr = 0` and black for `thr = 1`. -/
theorem test_canny :
    doneWord b7 { recordOf (.canny 1 0) 0 [shot b7 .rgb fun _ _ => 0] with margin := 3 } 1 3 3 =
      some 0x00FFFFFF ∧
    doneWord b7 { recordOf (.canny 1 0) 1 [shot b7 .rgb fun _ _ => 0] with margin := 3 } 1 3 3 = some 0 := by
  decide

/-- R221: on a black frame `(0, edge)` at the one pixel of the band, `(0, flat)` beside it. -/
theorem test_harris :
    doneWord b11 (recordOf (.harris 1 0) 0 [shot b11 .rgb fun _ _ => 0]) 1 5 5 = some 0x00010000 ∧
    doneWord b11 (recordOf (.harris 1 0) 0 [shot b11 .rgb fun _ _ => 0]) 1 6 5 = some 0 := by decide

/-- G1, G2, G9, G11, G16: directions and magnitudes of gradients. -/
theorem test_gradient_vectors :
    direction 256 (-618) = .deg90 ∧ direction 256 (-617) = .deg135 ∧ direction (-256) 106 = .deg135 ∧
    direction 17 (-7) = .deg0 ∧ magnitude 17 (-7) = 18 ∧ magnitude 1020 1020 = 255 := by decide

/-- R161: rounded square roots. -/
theorem test_round_sqrt :
    [0, 1, 2, 3, 6, 12, 13, 20, 64000, 65024, 65025, 2080800].map roundSqrt =
      [0, 1, 1, 2, 2, 3, 4, 4, 253, 255, 255, 1442] := by decide

/-- R206: scores of gradient pairs. -/
theorem test_scores :
    responseOut 24464 40000 5536 = BitVec.ofInt 32 781716312 ∧
    responseOut 57360 57360 8176 = BitVec.ofInt 32 (-1597983449) := by decide

/-! ### Witnesses: a state and operands that meet the hypotheses of each statement, clause by clause -/

/-- A 6×6 build whose plane 0 holds `w` everywhere and is tagged `t`. -/
def loaded (t : Tag) (w : Word) : State :=
  { (State.resetOf b6).setTag 0 t with mem := Memory.writeWords [] (planeBase 0) (List.replicate 36 w) }

/-- The snapshot of plane 0 of `loaded`. -/
def loadedShot (t : Tag) (w : Word) : Snapshot := ⟨t, List.replicate 36 w⟩

theorem loaded_snapshot : SnapshotOf (loaded .u8 100) (0, .exactly .u8) (loadedShot .u8 100) := by
  unfold SnapshotOf; decide

theorem witness_EncodeInvertsDecode : decode 0x00654741 = .ok (.response 7 4 5 6) := by decide

theorem witness_OpcodeTableDecidesCommands :
    decode 0x00007042 = .ok (.globalMax 7) ∧
    (⟨"GLOBAL_MAX", 0x00000042, 0xFFFF0FFF⟩ : OpRow) ∈ opcodeTable ∧
    (0x00007042 : Word) &&& 0xFFFF0FFF = 0x00000042 := by decide

theorem witness_UnlistedOpcodesAreIllegal :
    bits 0x000001FF 7 0 ∉ [0x10, 0x11, 0x01, 0x02, 0x08, 0x12, 0x13, 0x20, 0x21, 0x22, 0x30, 0x31, 0x32, 0x40,
      0x41, 0x42, 0x43, 0x44, 0x50, 0x51] ∧ State.reset.err = false ∧ State.reset.inflight = none := by decide

/-- The clauses of a word that does not decode: a listed opcode with a reserved bit, and an unlisted one. -/
theorem witness_DecodeProcedure_undecoded :
    State.reset.err = false ∧ State.reset.inflight = none ∧
    (decode 0x01000101 = .error .reservedField ∧
      ∃ row ∈ opcodeTable, bits 0x01000101 7 0 = bits row.pattern 7 0) ∧
    (decode 0 = .error .illegalOpcode ∧ ¬ ∃ row ∈ opcodeTable, bits 0 7 0 = bits row.pattern 7 0) := by decide

/-- The clauses of a decoded word, each where the ones before it do not apply: `ARG` 32 (31 passes), plane 8
of 8, a wrong tag, no maximum, an unwritten source. -/
theorem witness_DecodeProcedure_errors :
    (Instr.conv3 1 0).argOk 32 = false ∧ (Instr.conv3 1 0).argOk 31 = true ∧
    (Instr.togray 8 0).wellFormed b6x8 = false ∧ (Instr.togray 7 0).wellFormed b6x8 = true ∧
    (∃ p ∈ (Instr.togray 1 0).sources, p.2.ok ((loaded .u8 1).tag p.1) = false) ∧
    ((Instr.classify 1 0).needsMax = true ∧ (loaded .s32 1).maxv = false ∧
      ∀ p ∈ (Instr.classify 1 0).sources, p.2.ok ((loaded .s32 1).tag p.1) = true) ∧
    (∃ p ∈ (Instr.copy 1 0).sources, ∃ k < b6.size, (((State.resetOf b6).setTag 0 .u8).planeWord p.1 k) = none) := by
  decide

/-- The clause of acceptance, and the hypotheses of `LegalCommandsAreAccepted`. -/
theorem witness_LegalCommandsAreAccepted :
    (loaded .u8 100).err = false ∧ (loaded .u8 100).inflight = none ∧ decode 0x00000112 = .ok (.gauss3 1 0) ∧
    (Instr.gauss3 1 0).wellFormed b6 = true ∧ (Instr.gauss3 1 0).argOk 0 = true ∧
    (∀ p ∈ (Instr.gauss3 1 0).sources, p.2.ok ((loaded .u8 100).tag p.1) = true) ∧
    ((Instr.gauss3 1 0).needsMax = true → (loaded .u8 100).maxv = true) ∧
    List.Forall₂ (SnapshotOf (loaded .u8 100)) (Instr.gauss3 1 0).sources [loadedShot .u8 100] :=
  ⟨by decide, by decide, by decide, by decide, by decide, by decide, by decide, .cons loaded_snapshot .nil⟩

/-- Every clause of `WrongSourceTypesMismatch` holds of the block after reset, and of 31 in `ARG`. -/
theorem witness_WrongSourceTypesMismatch :
    State.reset.inflight = none ∧ (∀ p ∈ [(3 : PlaneNo), 2, 1, 0], p.val < State.reset.build.nplanes) ∧
    State.reset.tag 2 = .none ∧ State.reset.tag 1 = .none ∧ State.reset.tag 0 = .none ∧
    (Instr.conv3 3 2).argOk 31 = true := by decide

theorem witness_CommandAcceptanceRule :
    let s := { loaded .u8 100 with agenda := [.write 0x000 4 0x112] }
    s.build.legal = true ∧ s.agenda = [.write 0x000 4 0x112] ∧ s.err = false ∧ s.busy = false ∧
    ({ s with err := true } : State).err = true ∧
    ({ s with inflight := some (recordOf (.copy 1 0) 0 []) } : State).busy = true := by decide

theorem witness_ErrorEntryChangesOnlyTheErrorRecord :
    ∃ s t : State, step s = .next t ∧ s.err = false ∧ t.err = true :=
  ⟨{ State.reset with agenda := [.write 0x000 4 0] }, _, rfl, rfl, rfl⟩

theorem witness_ErrorsDoNotNest :
    ∃ s t : State, step s = .next t ∧ s.err = true :=
  ⟨{ State.reset with err := true, errcode := .noMax, agenda := [.write 0x000 4 0] }, _, rfl, rfl⟩

theorem witness_OverrunDoesNotDisturb :
    ∃ (s t : State) (r : InFlight), s.build.legal = true ∧ s.err = false ∧ s.inflight = some r ∧
      exec r.instr { s with rdata := none } = .next t ∧ s.agenda = [.write 0x000 4 5, .engine] :=
  ⟨{ flying b6 (recordOf (.copy 1 0) 0 [loadedShot .u8 7]) with agenda := [.write 0x000 4 5, .engine] }, _, _,
    rfl, rfl, rfl, rfl, rfl⟩

theorem witness_AcceptedCommandsCannotFail :
    ∃ (s t : State) (r : InFlight), s.inflight = some r ∧ step s = .next t :=
  ⟨{ flying b6 (recordOf (.copy 1 0) 0 [loadedShot .u8 7]) with agenda := [.engine] }, _, _, rfl, rfl⟩

/-- A state of the 6×6 build in which command `i` is in flight over copies of one frame. -/
def inFlight (i : Instr) (t : Tag) : State :=
  flying b6 (recordOf i 0 [loadedShot t 7, loadedShot t 8, loadedShot t 9])

/-- Command `i` is in flight in `inFlight i t`, whose build is legal. -/
def InFlightIs (s : State) (i : Instr) : Prop :=
  s.build.legal = true ∧ ∃ r, s.inflight = some r ∧ r.instr = i

theorem inFlight_is (i : Instr) (t : Tag) : InFlightIs (inFlight i t) i := ⟨rfl, _, rfl, rfl⟩

theorem witness_ConvolutionsComplete_conv3 : InFlightIs (inFlight (.conv3 1 0) .u8) (.conv3 1 0) := inFlight_is _ _
theorem witness_ConvolutionsComplete_conv5 : InFlightIs (inFlight (.conv5 1 0) .u8) (.conv5 1 0) := inFlight_is _ _
theorem witness_TograyCompletes : InFlightIs (inFlight (.togray 1 0) .rgb) (.togray 1 0) := inFlight_is _ _
theorem witness_TorgbCompletes : InFlightIs (inFlight (.torgb 1 0) .u8) (.torgb 1 0) := inFlight_is _ _
theorem witness_GaussiansComplete_gauss3 : InFlightIs (inFlight (.gauss3 1 0) .u8) (.gauss3 1 0) := inFlight_is _ _
theorem witness_GaussiansComplete_gauss5 : InFlightIs (inFlight (.gauss5 1 0) .u8) (.gauss5 1 0) := inFlight_is _ _
theorem witness_RawGradientsComplete_sobelx : InFlightIs (inFlight (.sobelx 1 0) .u8) (.sobelx 1 0) := inFlight_is _ _
theorem witness_RawGradientsComplete_sobely : InFlightIs (inFlight (.sobely 1 0) .u8) (.sobely 1 0) := inFlight_is _ _
theorem witness_ThresholdCompletes : InFlightIs (inFlight (.threshold 1 0) .u8) (.threshold 1 0) := inFlight_is _ _
theorem witness_BorderZeroCompletes : InFlightIs (inFlight (.borderZero 1 0) .u8) (.borderZero 1 0) := inFlight_is _ _
theorem witness_DecideCompletes : InFlightIs (inFlight (.classify 1 0) .s32) (.classify 1 0) := inFlight_is _ _
theorem witness_CannyCompletes : InFlightIs (inFlight (.canny 1 0) .rgb) (.canny 1 0) := inFlight_is _ _
theorem witness_ProductCompletes : InFlightIs (inFlight (.product 3 0 1) .s16) (.product 3 0 1) := inFlight_is _ _
theorem witness_ResponseCompletes :
    InFlightIs (inFlight (.response 3 0 1 2) .u16) (.response 3 0 1 2) := inFlight_is _ _
theorem witness_GlobalMaxCompletes : InFlightIs (inFlight (.globalMax 0) .s32) (.globalMax 0) := inFlight_is _ _
theorem witness_HarrisCompletes : InFlightIs (inFlight (.harris 1 0) .rgb) (.harris 1 0) := inFlight_is _ _

theorem witness_CopyCompletes :
    ∃ (s : State) (r : InFlight) (f : Snapshot), s.inflight = some r ∧ r.instr = .copy 1 0 ∧
      r.sources = [f] ∧ f.words.length = s.build.size :=
  ⟨flying b6 (recordOf (.copy 1 0) 0 [loadedShot .u8 7]), _, _, rfl, rfl, rfl, rfl⟩

/-- Both clauses of the band of size 3, at its boundary: the first column of the band and the one before. -/
theorem witness_SobelCompletes :
    InFlightIs (flying b7 (recordOf (.sobel 1 0) 0 [])) (.sobel 1 0) ∧ InBand b7 3 3 3 ∧ ¬ InBand b7 3 2 3 ∧
      ¬ InBand b7 3 4 3 :=
  ⟨⟨rfl, _, rfl, rfl⟩, by unfold InBand; decide, by unfold InBand; decide, by unfold InBand; decide⟩

theorem witness_EdgeNmsCompletes :
    InFlightIs (flying b7 (recordOf (.edgeNms 1 0) 0 [])) (.edgeNms 1 0) ∧ InBand b7 3 3 3 ∧ ¬ InBand b7 3 3 2 :=
  ⟨⟨rfl, _, rfl, rfl⟩, by unfold InBand; decide, by unfold InBand; decide⟩

theorem witness_CornerNmsCompletes :
    InFlightIs (flying b11 (recordOf (.cornerNms 1 0) 0 [])) (.cornerNms 1 0) ∧ InBand b11 5 5 5 ∧
      ¬ InBand b11 5 4 5 ∧ ¬ InBand b11 5 6 5 :=
  ⟨⟨rfl, _, rfl, rfl⟩, by unfold InBand; decide, by unfold InBand; decide, by unfold InBand; decide⟩

theorem witness_IntegerPrimitives : (3 : Int) ≠ 0 := by decide

/-- Each bucket of `t`, at its boundary: `t = -617, 106, 617, 618` from gradients with `gx ≠ 0`. -/
theorem witness_DirectionBuckets :
    (256 : Int) ≠ 0 ∧ tdiv (-617 * 256) 256 = -617 ∧ tdiv (106 * 256) 256 = 106 ∧ tdiv (617 * 256) 256 = 617 ∧
      tdiv (618 * 256) 256 = 618 := by decide

theorem witness_RaisingThresUpKeepsCorners :
    (4500 : Int) ≤ 4600 ∧ (classifyOut 1000 5000 4500).kind = .corner := by decide

theorem witness_CornerNmsTwiceIsOnceShifted : InBand b11 5 5 5 ∧ ¬ InBand b11 5 4 5 := by
  unfold InBand; decide

theorem witness_StepMechanismProducesTheWindow :
    0 < 3 ∧ 2 < 3 ∧ 4 < b6.width ∧ 5 < b6.height ∧ 0 ≤ 4 ∧ 4 < 5 ∧ 5 < b6.width := by decide

/-- The block with plane 0 loaded is ready, and plane 0 is written. -/
theorem loaded_ready (t : Tag) (w : Word) : (loaded t w).Ready := ⟨rfl, rfl, rfl⟩

theorem loaded_written : (loaded .rgb 0x00C8C8C8).Written 0 := by
  unfold State.Written; decide

theorem witness_CannyIsItsSequence :
    (loaded .rgb 0x00C8C8C8).Ready ∧ (loaded .rgb 0x00C8C8C8).tag 0 = .rgb ∧ (loaded .rgb 0x00C8C8C8).Written 0 ∧
    (∀ p ∈ [(7 : PlaneNo), 0, 1, 2, 3, 4, 5, 6], p.val < (loaded .rgb 0x00C8C8C8).build.nplanes) ∧
    [(1 : PlaneNo), 2, 3, 4, 5, 6].Nodup ∧ (0 : PlaneNo) ∉ [(1 : PlaneNo), 2, 3, 4, 5, 6] ∧
    (7 : PlaneNo) ∉ [(1 : PlaneNo), 2, 3, 4, 5, 6] :=
  ⟨loaded_ready _ _, by decide, loaded_written, by decide, by decide, by decide, by decide⟩

theorem witness_HarrisIsItsSequence :
    (loaded .rgb 0x00C8C8C8).Ready ∧ (loaded .rgb 0x00C8C8C8).tag 0 = .rgb ∧ (loaded .rgb 0x00C8C8C8).Written 0 ∧
    (∀ p ∈ [(10 : PlaneNo), 0, 1, 2, 3, 4, 5, 6, 7, 8, 9], p.val < (loaded .rgb 0x00C8C8C8).build.nplanes) ∧
    [(1 : PlaneNo), 2, 3, 4, 5, 6, 7, 8, 9].Nodup ∧ (0 : PlaneNo) ∉ [(1 : PlaneNo), 2, 3, 4, 5, 6, 7, 8, 9] ∧
    (10 : PlaneNo) ∉ [(1 : PlaneNo), 2, 3, 4, 5, 6, 7, 8, 9] :=
  ⟨loaded_ready _ _, by decide, loaded_written, by decide, by decide, by decide, by decide⟩

/-- A record of command `i` over a black 6×6 frame. -/
def black (i : Instr) (arg : Word) : InFlight := recordOf i arg [loadedShot .rgb 0]

theorem black_pixel (i : Instr) (arg : Word) (x y : Nat) : bits ((black i arg).pixel b6 0 x y) 23 0 = 0 := by
  have h : (black i arg).pixel b6 0 x y = 0 := by
    change (List.replicate 36 (0 : Word)).getD (x + y * b6.width) 0 = 0
    rw [List.getD_eq_getElem?_getD, List.getElem?_replicate]
    split <;> rfl
  rw [h]; decide

theorem witness_CannyOfBlackFrame :
    InFlightIs (flying b6 (black (.canny 1 0) 1)) (.canny 1 0) ∧
    (∀ x y, bits ((black (.canny 1 0) 1).pixel b6 0 x y) 23 0 = 0) ∧
    1 ≤ (black (.canny 1 0) 1).arg.toInt ∧ (black (.canny 1 0) 0).arg.toInt ≤ 0 ∧
    (∀ x y, bits ((black (.canny 1 0) 0).pixel b6 0 x y) 23 0 = 0) :=
  ⟨⟨rfl, _, rfl, rfl⟩, black_pixel _ _, by decide, by decide, black_pixel _ _⟩

theorem witness_HarrisOfBlackFrame :
    InFlightIs (flying b6 (black (.harris 1 0) 9)) (.harris 1 0) ∧
    (∀ x y, bits ((black (.harris 1 0) 9).pixel b6 0 x y) 23 0 = 0) :=
  ⟨⟨rfl, _, rfl, rfl⟩, black_pixel _ _⟩

theorem witness_HardResetState :
    let s := { flying b6 (recordOf (.copy 1 0) 0 []) with err := true, agenda := [.hardReset, .wait] }
    s.build.legal = true ∧ s.agenda = [.hardReset, .wait] := by decide

/-- Both values of bit 0, an aborted destination and a plane that is kept. -/
theorem witness_CtrlWritesSoftReset :
    let s := flying b6 (recordOf (.copy 1 0) 0 [])
    s.build.legal = true ∧ bits 0xFFFFFFFE 0 0 = 0 ∧ bits 1 0 0 = 1 ∧
    (s.inflight.bind fun r => r.instr.dst?) = some 1 ∧ (s.inflight.bind fun r => r.instr.dst?) ≠ some 0 ∧
    35 < s.build.size := by decide

theorem witness_registers_legal : State.reset.build.legal = true ∧ b6x8.legal = true := by decide

/-- An idle block and one with a command in flight, each with a maximum and an error record that differ. -/
theorem witness_ConstantRegisters :
    ({ State.resetOf b6 with maxr := 7, errinfo := 9 } : State).build.legal = true ∧
    ({ flying b6 (recordOf (.copy 1 0) 0 []) with maxr := 7, errinfo := 9 } : State).build.legal = true := by
  decide

/-- Planes 7 and 8 of a build with 8 planes. -/
theorem witness_PtypeRegisters :
    b6x8.legal = true ∧ (State.resetOf b6x8).inflight = none ∧ (7 : PlaneNo).val < b6x8.nplanes ∧
    b6x8.nplanes ≤ (8 : PlaneNo).val := by decide

/-- The offsets at both ends of the gap behind the coefficient file, and the last coefficient. -/
theorem witness_KcoefRegisters :
    0x164 ≤ 0x164 ∧ 0x164 % 4 = 0 ∧ 0x1FC ≤ 0x1FC ∧ 0x1FC % 4 = 0 ∧ 5 * 4 + 4 < 25 ∧
    (recordOf (.copy 1 0) 0 []).kcoef = (State.resetOf b6).kcoef := by decide

/-- Addresses just behind each backed range: a register gap, the control window, plane 15. -/
theorem witness_UnbackedAddressesReadZero :
    ∀ a ∈ [0x030#32, 0x164#32, 0x240#32, 0x1000#32, 0x1F000090#32, 0x20000000#32],
      bits a 1 0 = 0 ∧
      a.toNat ∉ [0x000, 0x004, 0x008, 0x00C, 0x010, 0x014, 0x018, 0x01C, 0x020, 0x024, 0x028, 0x02C] ∧
      (∀ i < 25, a.toNat ≠ 0x100 + 4 * i) ∧ (∀ p < 16, a.toNat ≠ 0x200 + 4 * p) ∧
      (∀ p < 16, ∀ i < 36, a.toNat ≠ 0x10000000 + p * 0x01000000 + 4 * i) := by
  simp only [List.forall_mem_cons, List.not_mem_nil, false_implies, implies_true, and_true]
  refine ⟨?_, ?_, ?_, ?_, ?_, ?_⟩ <;>
    exact ⟨by decide, by decide, by decide, by decide, fun p _ i _ => by simp only [BitVec.toNat_ofNat]; omega⟩

theorem witness_PutThenGetReturnsTheWord :
    let s := State.resetOf b6
    s.build.legal = true ∧ s.inflight = none ∧ Memory.wf s.mem ∧ (15 : PlaneNo).val < s.build.nplanes ∧
    5 < s.build.width ∧ 5 < s.build.height := by decide

theorem witness_AccessesOutsideTheProtocolAreRefused :
    State.reset.build.legal = true ∧ (1 : Nat) ≠ 4 ∧ bits 0x10000002 1 0 ≠ 0 := by decide

/-- A plane word, a `PTYPE` register, and an address that is neither, while busy. -/
theorem witness_PlaneAccessesWhileBusyAreRefused :
    let s := flying b6 (recordOf (.copy 1 0) 0 [])
    s.build.legal = true ∧ s.busy = true ∧
    (∀ a ∈ [0x1F00008C#32, 0x23C#32, 0x000#32, 0x1F000090#32], bits a 1 0 = 0) ∧
    (0x1F00008C#32).toNat = 0x10000000 + 15 * 0x01000000 + 4 * 35 ∧ (0x23C : Word).toNat = 0x200 + 4 * 15 ∧
    (∀ a ∈ [0x23C#32, 0x000#32, 0x1F000090#32], ∀ p < 16, ∀ i < 36,
      a.toNat ≠ 0x10000000 + p * 0x01000000 + 4 * i) ∧
    (∀ a ∈ [0x000#32, 0x1F000090#32], ∀ p < 16, a.toNat ≠ 0x200 + 4 * p) := by
  refine ⟨by decide, by decide, by simp [bits], by norm_num, by decide, ?_, ?_⟩ <;>
    simp only [List.forall_mem_cons, List.not_mem_nil, false_implies, implies_true, and_true]
  · refine ⟨?_, ?_, ?_⟩ <;> exact fun p _ i _ => by simp only [BitVec.toNat_ofNat]; omega
  · refine ⟨?_, ?_⟩ <;> exact fun p _ => by simp only [BitVec.toNat_ofNat]; omega

theorem witness_ReadsHaveNoSideEffect :
    ∃ s t : State, s.agenda = [.read 0x008 4] ∧ step s = .next t :=
  ⟨{ State.reset with agenda := [.read 0x008 4] }, _, rfl, rfl⟩

theorem witness_FaultsAreUnwrittenWords :
    step { State.reset with agenda := [.read 0x10000000 4] } = .fault .unwrittenRead ∧
    step { (State.reset).setTag 0 .u8 with agenda := [.write 0x000 4 0x00000108] } = .fault .unwrittenSource :=
  ⟨rfl, rfl⟩

/-- The read clauses of FaultsAreUnwrittenWords: the last word of the last plane, written, and the first word
of the first plane, not written. -/
theorem witness_FaultsAreUnwrittenWords_read :
    let s := { State.resetOf b6 with mem := Memory.writeWord [] (planeAddr 15 35) 100 }
    s.build.legal = true ∧ s.inflight = none ∧ (15 : PlaneNo).val < s.build.nplanes ∧ 35 < s.build.size ∧
    (0x1F00008C#32).toNat = 0x10000000 + 15 * 0x01000000 + 4 * 35 ∧ s.planeWord 15 35 = some 100 ∧
    (0x10000000#32).toNat = 0x10000000 + 0 * 0x01000000 + 4 * 0 ∧ s.planeWord 0 0 = none := by decide

/-- `MAXR` and `ERRINFO` are told apart, and a read of `CMD` is 0 (R21, R33, R34). -/
theorem test_read_only_registers :
    let s := { State.resetOf b6 with maxr := 7, errinfo := 9 }
    (nextOf (hostRead 0x01C 4 s)).rdata = some 7 ∧ (nextOf (hostRead 0x020 4 s)).rdata = some 9 ∧
    (nextOf (hostRead 0x000 4 s)).rdata = some 0 := ⟨rfl, rfl, rfl⟩

theorem witness_IllegalBuildsAreRefused :
    (State.resetOf ⟨5, 6, 16⟩).build.legal = false ∧ (State.resetOf ⟨6, 6, 17⟩).build.legal = false ∧
    (State.resetOf ⟨2 ^ 20, 5, 1⟩).build.legal = false ∧ b6.legal = true := by decide

theorem witness_StepRunsTheDecodedCommand :
    let s := { loaded .u8 100 with agenda := [.write 0x000 4 0x112] }
    s.Ready ∧ s.agenda = [.write 0x000 4 0x112] ∧ decode 0x112 = .ok (.gauss3 1 0) ∧
    decodeTableWord 32 0x112 = some (.gauss3 1 0) := by
  exact ⟨⟨rfl, rfl, rfl⟩, rfl, by decide, by decide⟩

theorem witness_StepCompletesTheCommandInFlight :
    let s := inFlight (.gauss3 1 0) .u8
    InFlightIs s (.gauss3 1 0) ∧ s.agenda = [] ∧
    ({ s with agenda := [.engine] } : State).agenda = [.engine] ∧
    ({ s with agenda := [.wait] } : State).agenda = [.wait] := ⟨inFlight_is _ _, rfl, rfl, rfl⟩

theorem witness_CommandThenWaitCompletes :
    let s := { loaded .rgb 0x00C8C8C8 with agenda := [.write 0x000 4 (encode (.canny 1 0)), .wait] }
    s.Ready ∧ (Instr.canny 1 0).wellFormed s.build = true ∧ (Instr.canny 1 0).argOk s.arg = true ∧
    (∀ p ∈ (Instr.canny 1 0).sources, p.2.ok (s.tag p.1) = true ∧ s.Written p.1) ∧
    ((Instr.canny 1 0).needsMax = true → s.maxv = true) ∧
    s.agenda = [.write 0x000 4 (encode (.canny 1 0)), .wait] := by
  refine ⟨⟨rfl, rfl, rfl⟩, rfl, rfl, ?_, by decide, rfl⟩
  intro p hp
  obtain rfl : p = (0, .exactly .rgb) := by simpa [Instr.sources] using hp
  exact ⟨by decide, loaded_written⟩

theorem witness_ResetSatisfiesTheInvariant : b6.legal = true ∧ b11.legal = true := by decide

/-- A state with an empty memory and an access pending that meets the invariant, and its step. -/
theorem witness_StepKeepsTheInvariant :
    ∃ s t : State, s.Inv ∧ step s = .next t := by
  refine ⟨{ State.resetOf b6 with agenda := [.write 0x004 4 7] }, _, ?_, rfl⟩
  exact
    { legal := rfl
      mem := { wf := .nil, backed := by simp [State.resetOf], whole := fun _ _ _ _ _ _ => rfl }
      status :=
        { errCode := by simp [State.resetOf], errInfo := fun _ => rfl, maxReset := fun _ => rfl,
          doneErr := by simp [State.resetOf], busyDone := by simp [State.resetOf],
          busyErr := by simp [State.resetOf, State.busy] }
      noTagBeyond := fun p hp => absurd p.isLt (Nat.not_lt.mpr hp)
      record := by simp [State.resetOf] }

end Sys2Proof.Tests
end

section
/-!
PROOFS. The family `00_scope.md`: the arithmetic primitives of R16, and the legal configurations of R10 and R11.
-/

namespace Sys2Proof.Machine

/-! ### The arithmetic primitives (R16) -/

theorem asr_eq_floor (v : Int) (n : Nat) : asr v n = ((v : Rat) / 2 ^ n).floor := by
  have h := Rat.floor_intCast_div_natCast v (2 ^ n)
  push_cast at h
  exact h.symm

/-- The sign of the quotient is that of `a·b`, except where the quotient is 0. -/
theorem tdiv_eq_sign_mul (a b : Int) : tdiv a b = a.sign * b.sign * ((a.natAbs / b.natAbs : Nat) : Int) := by
  have habs : (a.tdiv b).natAbs = a.natAbs / b.natAbs := Int.natAbs_tdiv a b
  rw [tdiv, ← Int.sign_mul_natAbs (a.tdiv b), habs, Int.sign_tdiv]
  split
  next hlt => simp [Nat.div_eq_of_lt hlt]
  next => rfl

/-- The invariant of the search: the root lies in the interval of the bits still to be tried. -/
theorem isqrtBits_eq_sqrt {n k r : Nat} (hlow : r ≤ n.sqrt) (hhigh : n.sqrt < r + 2 ^ k) :
    isqrtBits n k r = n.sqrt := by
  induction k generalizing r with
  | zero =>
    rw [isqrtBits]
    omega
  | succ k ih =>
    simp only [isqrtBits, ← Nat.le_sqrt]
    split
    next hbit => exact ih hbit (by omega)
    next hbit => exact ih hlow (by omega)

theorem sqrt_lt_two_pow (n : Nat) : n.sqrt < 2 ^ (n.log2 / 2 + 1) := by
  rw [Nat.sqrt_lt, ← Nat.pow_add]
  calc n < 2 ^ (n.log2 + 1) := Nat.lt_log2_self
    _ ≤ 2 ^ (n.log2 / 2 + 1 + (n.log2 / 2 + 1)) := Nat.pow_le_pow_right Nat.two_pos (by omega)

theorem isqrt_eq_sqrt (n : Nat) : isqrt n = n.sqrt :=
  isqrtBits_eq_sqrt (Nat.zero_le _) (by simpa using sqrt_lt_two_pow n)

/-- Settles O32: each primitive by its own lemma, `isqrt` being the library's root. -/
theorem integerPrimitives : Obligations.IntegerPrimitives :=
  ⟨asr_eq_floor, fun a b _ => tdiv_eq_sign_mul a b, fun n m => by rw [isqrt_eq_sqrt, Nat.le_sqrt]⟩

/-! ### Legal configurations (R10, R11) -/

theorem legal_iff (b : Build) :
    b.legal = true ↔
      6 ≤ b.width ∧ 6 ≤ b.height ∧ b.width * b.height ≤ 2 ^ 22 ∧ 1 ≤ b.nplanes ∧ b.nplanes ≤ 16 := by
  simp only [Build.legal, Bool.and_eq_true, decide_eq_true_eq, and_assoc]

theorem step_of_illegal {s : State} (hb : s.build.legal = false) : step s = .refused .illegalBuild := by
  simp [step, hb]

/-- Settles O55: the conditions of `legal` read off, and the guard of `step`. -/
theorem illegalBuildsAreRefused : Obligations.IllegalBuildsAreRefused :=
  fun s => ⟨legal_iff s.build, step_of_illegal⟩

end Sys2Proof.Machine
end

section
/-!
PROOFS. The family `10_state.md`: the accesses of a control register as whole steps, and the registers `CTRL`,
`STATUS`, `KCOEF` and the read-only ones.
-/

namespace Sys2Proof.Machine

variable {s t : State} {a v : Word} {r : Reg} {rest : List Event}

/-! ### One access of a control register, as a step -/

/-- What a register shows depends neither on the agenda nor on the port's last answer. -/
theorem State.readReg_port (s : State) (r : Reg) (es : List Event) (o : Option Word) :
    State.readReg { s with agenda := es, rdata := o } r = s.readReg r := by
  cases r <;> rfl

theorem step_read_register (hb : s.build.legal = true) (ha : a.toNat = r.offset) :
    step { s with agenda := .read a 4 :: rest } =
      .next { s with agenda := rest, rdata := some (s.readReg r) } := by
  rw [step_read hb, hostRead_register ha, State.readReg_port]
  rfl

theorem step_write_register (hb : s.build.legal = true) (ha : a.toNat = r.offset) :
    step { s with agenda := .write a 4 v :: rest } =
      writeReg v { s with agenda := rest, rdata := none } r := by
  rw [step_write hb, hostWrite_register ha]

/-- A write of a register that leads to `t`, then a read of it, answers with what the register shows in `t`. -/
theorem run_write_read_register (hb : s.build.legal = true) (ha : a.toNat = r.offset)
    (hw : writeReg v { s with agenda := .read a 4 :: rest, rdata := none } r =
      .next { t with agenda := .read a 4 :: rest }) (ht : t.build.legal = true) :
    Host.Core.run core 2 { s with agenda := .write a 4 v :: .read a 4 :: rest } =
      .next { t with agenda := rest, rdata := some (t.readReg r) } := by
  have hwrite := (step_write_register hb ha).trans hw
  have hread := step_read_register (rest := rest) ht ha
  exact (run_of_next (M := core) hwrite).trans (run_of_next (M := core) hread)

/-- A register that ignores writes still shows what it showed before the write. -/
theorem run_write_read_of_ignored (hb : s.build.legal = true) (ha : a.toNat = r.offset)
    (hw : ∀ u, writeReg v u r = .next u) :
    Host.Core.run core 2 { s with agenda := .write a 4 v :: .read a 4 :: rest } =
      .next { s with agenda := rest, rdata := some (s.readReg r) } :=
  run_write_read_register (t := { s with rdata := none }) hb ha (hw _) hb

/-! ### One access of an address behind which nothing stands (R63) -/

theorem step_read_unbacked (hb : s.build.legal = true) (ha : bits a 1 0 = 0)
    (ht : targetOf s.build a = .unbacked) :
    step { s with agenda := .read a 4 :: rest } = .next { s with agenda := rest, rdata := some 0 } := by
  rw [step_read hb]
  unfold hostRead
  rw [accessRefusal_eq_none_iff.mpr ⟨rfl, ha⟩]
  simp only [ht]
  rfl

theorem step_write_unbacked (hb : s.build.legal = true) (ha : bits a 1 0 = 0)
    (ht : targetOf s.build a = .unbacked) :
    step { s with agenda := .write a 4 v :: rest } = .next { s with agenda := rest, rdata := none } := by
  rw [step_write hb]
  unfold hostWrite
  rw [accessRefusal_eq_none_iff.mpr ⟨rfl, ha⟩]
  simp only [ht]

theorem run_write_read_unbacked (hb : s.build.legal = true) (ha : bits a 1 0 = 0)
    (ht : targetOf s.build a = .unbacked) :
    Host.Core.run core 2 { s with agenda := .write a 4 v :: .read a 4 :: rest } =
      .next { s with agenda := rest, rdata := some 0 } := by
  have hread := step_read_unbacked (s := { s with rdata := none }) (rest := rest) hb ha ht
  exact (run_of_next (M := core) (step_write_unbacked hb ha ht)).trans (run_of_next (M := core) hread)

/-! ### The read-only registers (R21, R29, R33, R34) -/

/-- Settles O48: each register ignores the write and shows what the state holds. -/
theorem constantRegisters : Obligations.ConstantRegisters := by
  intro s v rest hb
  refine ⟨?_, run_write_read_of_ignored (r := .maxr) hb rfl fun _ => rfl,
    run_write_read_of_ignored (r := .errinfo) hb rfl fun _ => rfl, step_read_register (r := .cmd) hb rfl⟩
  simp only [List.forall_mem_cons]
  exact ⟨run_write_read_of_ignored (r := .width) hb rfl fun _ => rfl,
    run_write_read_of_ignored (r := .height) hb rfl fun _ => rfl,
    run_write_read_of_ignored (r := .hkconst) hb rfl fun _ => rfl,
    run_write_read_of_ignored (r := .hlow) hb rfl fun _ => rfl,
    run_write_read_of_ignored (r := .nplanes) hb rfl fun _ => rfl,
    fun _ h => absurd h List.not_mem_nil⟩

/-! ### `STATUS` (R23) -/

theorem flag_le_one (b : Bool) : flag b ≤ 1 := by cases b <;> decide

theorem ErrCode.code_lt (e : ErrCode) : e.code < 16 := by cases e <;> decide

/-- The value of the status word is the sum its fields make, which fits in 12 bits. -/
theorem State.statusWord_toNat (s : State) :
    s.statusWord.toNat =
      flag s.busy + 2 * flag s.done + 4 * flag s.err + 8 * flag s.maxv + 256 * s.errcode.code := by
  have := flag_le_one s.busy
  have := flag_le_one s.done
  have := flag_le_one s.err
  have := flag_le_one s.maxv
  have := s.errcode.code_lt
  exact Nat.mod_eq_of_lt (by omega)

theorem State.statusWord_fields (s : State) :
    bits s.statusWord 0 0 = flag s.busy ∧ bits s.statusWord 1 1 = flag s.done ∧
      bits s.statusWord 2 2 = flag s.err ∧ bits s.statusWord 3 3 = flag s.maxv ∧
      bits s.statusWord 7 4 = 0 ∧ bits s.statusWord 11 8 = s.errcode.code ∧
      bits s.statusWord 31 12 = 0 := by
  have := flag_le_one s.busy
  have := flag_le_one s.done
  have := flag_le_one s.err
  have := flag_le_one s.maxv
  have := s.errcode.code_lt
  unfold bits
  rw [State.statusWord_toNat]
  omega

/-- Settles O44: the fields by their places in the sum, the accesses as those of a register that ignores writes. -/
theorem statusRegister : Obligations.StatusRegister := fun s _ _ hb =>
  ⟨s.statusWord_fields, step_read_register (r := .status) hb rfl, step_write_register (r := .status) hb rfl, rfl⟩

/-! ### `KCOEF` (R35) -/

theorem toNat_address_kcoef (i : Fin 25) :
    (BitVec.ofNat 32 (0x100 + 4 * i.val)).toNat = (Reg.kcoef i).offset :=
  Nat.mod_eq_of_lt (by have := i.isLt; omega)

/-- Nothing stands behind the coefficient file up to the tag registers. -/
theorem targetOf_gap_behind_kcoef {b : Build} (hlow : 0x164 ≤ a.toNat) (hhigh : a.toNat ≤ 0x1FC)
    (ha : bits a 1 0 = 0) : targetOf b a = .unbacked := by
  refine targetOf_unbacked ha (fun r => ?_) fun p i _ _ => ?_
  · cases r with
    | kcoef i => have := i.isLt; simp only [Reg.offset]; omega
    | _ => simp only [Reg.offset]; omega
  · unfold planeAddr planeBase
    omega

/-- A record that latched the coefficient file takes its kernel from it, row by row. -/
theorem InFlight.kernel_eq {r : InFlight} {k i j : Nat} (h : k * i + j < 25) :
    r.kernel k i j = r.kcoef[k * i + j].toInt := by
  simp [InFlight.kernel, h]

theorem State.kcoef_setKcoef_self (s : State) (i : Fin 25) (v : Word) :
    (s.setKcoef i v).kcoef[i] = v.setWidth 16 := by
  rw [State.kcoef_setKcoef, if_pos rfl, BitVec.setWidth_eq_extractLsb' (by decide)]

/-- A coefficient written and read back: only it changes, and the read answers with its sign extension. -/
theorem run_write_read_kcoef (hb : s.build.legal = true) (i : Fin 25) (ha : a.toNat = (Reg.kcoef i).offset) :
    Host.Core.run core 2 { s with agenda := .write a 4 v :: .read a 4 :: rest } =
      .next { s.setKcoef i v with agenda := rest, rdata := some ((v.setWidth 16).signExtend 32) } := by
  have hset : (s.setKcoef i v).readReg (.kcoef i) = (v.setWidth 16).signExtend 32 := by
    rw [State.readReg, kcoefWord, State.kcoef_setKcoef_self]
  rw [← hset]
  exact run_write_read_register (t := { s.setKcoef i v with rdata := none }) hb ha rfl hb

/-- Settles O47: each coefficient by its register, the gap behind the file as unbacked addresses. -/
theorem kcoefRegisters : Obligations.KcoefRegisters := by
  intro s v rest hb
  refine ⟨fun i => ⟨_, run_write_read_kcoef hb i (toNat_address_kcoef i), rfl, rfl,
      s.kcoef_setKcoef_self i v, fun j hj => (s.kcoef_setKcoef i j v).trans (if_neg hj)⟩,
    fun o hlow hhigh ho => ?_, fun i => ?_, fun r hr k i j h => ?_⟩
  · have htoNat : (BitVec.ofNat 32 o).toNat = o := Nat.mod_eq_of_lt (by omega)
    have ha : bits (BitVec.ofNat 32 o) 1 0 = 0 := by unfold bits; omega
    exact run_write_read_unbacked hb ha (targetOf_gap_behind_kcoef (by omega) (by omega) ha)
  · simp [State.resetOf]
  · rw [InFlight.kernel_eq h]
    simp only [hr]

/-! ### `CTRL` and the soft reset (R28, R281) -/

/-- The words of the plane an erasure covers have no value (R281). -/
theorem State.planeWord_erasePlane_self (s : State) (d : PlaneNo) {i : Nat} (hi : i < s.build.size) :
    (s.erasePlane d).planeWord d i = none := by
  refine Memory.readWord_eq_none_of_byte (k := 0) (by omega) ?_
  rw [State.erasePlane_mem, Memory.read_erase, if_pos (by unfold planeAddr; omega)]

/-- The erasure of a plane reaches no word of another plane (R62, R281). -/
theorem State.planeWord_erasePlane_of_ne (hb : s.build.legal = true) {d p : PlaneNo} (hp : p ≠ d) {i : Nat}
    (hi : i < s.build.size) : (s.erasePlane d).planeWord p i = s.planeWord p i := by
  refine Memory.readWord_congr fun k hk => ?_
  have hs := legal_size_le hb
  have hv : p.val ≠ d.val := fun h => hp (Fin.ext h)
  rw [State.erasePlane_mem, Memory.read_erase, if_neg (by unfold planeAddr planeBase; omega)]

/-- An abort leaves the destination of the command in flight unwritten. -/
theorem State.planeWord_abort_dst {d : PlaneNo} (hd : s.inflightDst = some d) {i : Nat} (hi : i < s.build.size) :
    s.abort.planeWord d i = none := by
  unfold State.abort
  rw [hd]
  exact s.planeWord_erasePlane_self d hi

/-- An abort keeps the words of every plane that is not the destination of the command in flight. -/
theorem State.planeWord_abort_other (hb : s.build.legal = true) {p : PlaneNo} (hp : s.inflightDst ≠ some p)
    {i : Nat} (hi : i < s.build.size) : s.abort.planeWord p i = s.planeWord p i := by
  unfold State.abort
  cases hd : s.inflightDst with
  | none => rfl
  | some d => exact State.planeWord_erasePlane_of_ne hb (fun h => hp (hd.trans (congrArg some h.symm))) hi

/-- The soft reset is the state after reset, but for the plane memory, the agenda and the port. -/
theorem State.softReset_eq_resetOf (s : State) :
    s.softReset =
      { State.resetOf s.build with mem := s.abort.mem, agenda := s.agenda, rdata := s.rdata } := by
  simp [State.softReset, State.resetOf, marginReset]

/-- Settles O43: bit 0 decides, and the soft reset differs from the state after reset in the memory alone, which
is that of the abort. -/
theorem ctrlWritesSoftReset : Obligations.CtrlWritesSoftReset := by
  intro s v rest hb
  have hwrite := step_write_register (r := .ctrl) (a := 0x00C) (v := v) (rest := rest) hb rfl
  refine ⟨step_read_register (r := .ctrl) hb rfl, fun h0 => ?_, fun h1 => ?_⟩
  · rw [hwrite, writeReg, if_neg (by omega)]
  · rw [writeReg, if_pos h1] at hwrite
    refine ⟨_, hwrite, State.softReset_eq_resetOf _, fun d hd i hi => ?_, fun p i _ hi hp => ?_⟩
    · exact State.planeWord_abort_dst (s := { s with agenda := rest, rdata := none }) hd hi
    · exact State.planeWord_abort_other (s := { s with agenda := rest, rdata := none }) hb hp hi

end Sys2Proof.Machine
end

section
/-!
PROOFS. The family `20_memory.md`: addresses behind which nothing stands, and accesses outside the host protocol.
-/

namespace Sys2Proof.Machine

variable {s : State} {a v : Word} {size : Nat} {why : Refusal} {rest : List Event}

/-! ### Addresses behind which nothing stands (R63) -/

/-- The registers are at the offsets 10_state.md lists and nowhere else. -/
theorem Reg.ne_offset_of_not_listed {n : Nat}
    (hfixed : n ∉ [0x000, 0x004, 0x008, 0x00C, 0x010, 0x014, 0x018, 0x01C, 0x020, 0x024, 0x028, 0x02C])
    (hkcoef : ∀ i < 25, n ≠ 0x100 + 4 * i) (hptype : ∀ p < 16, n ≠ 0x200 + 4 * p) (r : Reg) :
    n ≠ r.offset := by
  cases r with
  | kcoef i => exact hkcoef i i.isLt
  | ptype p => exact hptype p p.isLt
  | _ => exact fun h => hfixed (h ▸ by decide)

/-- Settles O49: the address names neither a register nor a plane word, so the address map gives it no target. -/
theorem unbackedAddressesReadZero : Obligations.UnbackedAddressesReadZero := by
  intro s a v rest hb ha hfixed hkcoef hptype hplane
  have ht : targetOf s.build a = .unbacked :=
    targetOf_unbacked ha (Reg.ne_offset_of_not_listed hfixed hkcoef hptype) fun p i => hplane p i
  exact ⟨step_read_unbacked hb ha ht, step_write_unbacked hb ha ht⟩

/-! ### Accesses outside the host protocol (R66) -/

/-- The size is looked at before the alignment. -/
theorem accessRefusal_eq_some (h : size ≠ 4 ∨ bits a 1 0 ≠ 0) :
    accessRefusal a size = some (if size ≠ 4 then .accessSize else .misaligned) := by
  unfold accessRefusal
  split
  next => rfl
  next hsize => exact if_pos (h.resolve_left hsize)

theorem step_read_refused (hb : s.build.legal = true) (h : accessRefusal a size = some why) :
    step { s with agenda := .read a size :: rest } = .refused why := by
  rw [step_read hb, hostRead, h]

theorem step_write_refused (hb : s.build.legal = true) (h : accessRefusal a size = some why) :
    step { s with agenda := .write a size v :: rest } = .refused why := by
  rw [step_write hb, hostWrite, h]

/-- Settles O51: the port's check comes before the address map, in a read and in a write alike. -/
theorem accessesOutsideTheProtocolAreRefused : Obligations.AccessesOutsideTheProtocolAreRefused := by
  intro s a v size rest hb h
  exact ⟨step_read_refused hb (accessRefusal_eq_some h), step_write_refused hb (accessRefusal_eq_some h)⟩

end Sys2Proof.Machine
end

section
/-!
PROOFS. The family `30_encoding.md`: the example words of R117, and the opcodes outside the map of R95.
-/

namespace Sys2Proof.Machine

/-! ### The example words (R117) -/

/-- Settles O1: six words, each evaluated in both directions. -/
theorem encodingExamplesDecode : Obligations.EncodingExamplesDecode := by
  unfold Obligations.EncodingExamplesDecode
  decide

/-! ### Opcodes outside the map (R96) -/

variable {s : State} {w : Word}

/-- The decoder has an arm for each opcode of R95, and one for all the others. -/
theorem decode_of_unlisted
    (hw : bits w 7 0 ∉ [0x10, 0x11, 0x01, 0x02, 0x08, 0x12, 0x13, 0x20, 0x21, 0x22, 0x30, 0x31, 0x32, 0x40,
      0x41, 0x42, 0x43, 0x44, 0x50, 0x51]) : decode w = .error .illegalOpcode := by
  unfold decode
  split
  case h_21 => rfl
  all_goals
    rename_i hop
    rw [hop] at hw
    exact absurd hw (by decide)

/-- A word that does not decode, on an engine neither busy nor in error, clears `DONE` and enters the error
state (R98, R250). -/
theorem writeCmd_of_decode_error {e : DecodeError} (he : s.err = false) (hf : s.inflight = none)
    (hd : decode w = .error e) :
    writeCmd w s = .next ({ s with done := false }.cmdError e.errCode w) := by
  simp [writeCmd, he, hf, hd]

/-- Settles O5: the decoder rejects the word by name, and the zero word's opcode is no row of the map. -/
theorem unlistedOpcodesAreIllegal : Obligations.UnlistedOpcodesAreIllegal :=
  ⟨fun _ _ hw he hf => writeCmd_of_decode_error he hf (decode_of_unlisted hw),
    fun _ he hf => writeCmd_of_decode_error he hf (decode_of_unlisted (by decide))⟩

end Sys2Proof.Machine
end

section
/-!
PROOFS. The family `40_window_engine.md`: the rows the line buffer holds (R121), and the window that the step
mechanism of R124 leaves (R123).
-/

namespace Sys2Proof.Machine

variable {α : Type} {k x x' y i j n : Nat} {zero sample : α} {src : Nat → Nat → α} {e : Engine α} {b : Build}

/-! ### One step (R124) -/

@[simp] theorem Engine.start_lb : (Engine.start zero).lb i x = zero := rfl

@[simp] theorem Engine.step_lb : (e.step k zero x sample).lb i x' = e.push k x sample i x' := rfl

theorem Engine.push_of_ne (h : x' ≠ x) : e.push k x sample i x' = e.lb i x' := if_neg h

theorem Engine.push_older (hi : i + 1 < k) : e.push k x sample i x = e.lb (i + 1) x := by
  simp [Engine.push, hi]

theorem Engine.push_newest (hi : i + 1 = k) : e.push k x sample i x = sample := by
  simp [Engine.push, hi]

theorem Engine.step_win_outside (h : x + j < k - 1) : (e.step k zero x sample).win i j = zero := if_pos h

theorem Engine.step_win_shift (h : k - 1 ≤ x + j) (hj : j + 1 < k) :
    (e.step k zero x sample).win i j = e.win i (j + 1) := by
  simp [Engine.step, Nat.not_lt.mpr h, hj]

theorem Engine.step_win_newest (hj : j + 1 = k) :
    (e.step k zero x sample).win i j = (e.step k zero x sample).lb i x := by
  have hin : ¬ x + j < k - 1 := by omega
  simp [Engine.step, hin, hj]

/-- Step `x + y·WIDTH` of raster order is the one at pixel `(x, y)` (R18, R19). -/
theorem Engine.after_succ (hx : x < b.width) :
    Engine.after b k zero src (x + y * b.width + 1) =
      (Engine.after b k zero src (x + y * b.width)).step k zero x (src x y) := by
  have hcol : (x + y * b.width) % b.width = x := by rw [Nat.add_mul_mod_self_right, Nat.mod_eq_of_lt hx]
  have hrow : (x + y * b.width) / b.width = y := by
    rw [Nat.add_mul_div_right _ _ (Nat.zero_lt_of_lt hx), Nat.div_eq_of_lt hx, Nat.zero_add]
  rw [Engine.after, hcol, hrow]

/-! ### The rows of the line buffer (R121) -/

/-- Entry `i` of column `x` of the line buffer once the source rows below `n` have entered that column. -/
def bufferedRow (k : Nat) (zero : α) (src : Nat → Nat → α) (x n i : Nat) : α :=
  if k ≤ n + i then src x (n + i - k) else zero

theorem bufferedRow_zero (hi : i < k) : bufferedRow k zero src x 0 i = zero :=
  if_neg (by omega)

/-- One more row in the column moves every older entry up by one place. -/
theorem bufferedRow_succ : bufferedRow k zero src x (n + 1) i = bufferedRow k zero src x n (i + 1) := by
  rw [bufferedRow, bufferedRow, Nat.add_right_comm, Nat.add_assoc]

theorem bufferedRow_newest (hi : i + 1 = k) : bufferedRow k zero src x (n + 1) i = src x n := by
  rw [bufferedRow, if_pos (by omega), show n + 1 + i - k = n by omega]

/-- The entries of R121 once row `y` itself has entered the column. -/
theorem bufferedRow_of_pos (hk : 0 < k) :
    bufferedRow k zero src x (y + 1) i = if k - 1 ≤ y + i then src x (y + i - (k - 1)) else zero := by
  have hle : k ≤ y + 1 + i ↔ k - 1 ≤ y + i := by omega
  have hrow : y + 1 + i - k = y + i - (k - 1) := by omega
  rw [bufferedRow, hrow]
  simp only [hle]

/-- The invariant of the line buffer just before the step at `(x, y)`: the columns below `x` have taken row `y`,
and the others the rows before it (R121). -/
def Engine.HoldsRows (b : Build) (k : Nat) (zero : α) (src : Nat → Nat → α) (x y : Nat) (e : Engine α) : Prop :=
  ∀ i < k, ∀ x' < b.width, e.lb i x' = bufferedRow k zero src x' (if x' < x then y + 1 else y) i

theorem Engine.holdsRows_start : (Engine.start zero).HoldsRows b k zero src 0 0 := fun i hi x' _ => by
  simp [bufferedRow_zero hi]

/-- Pushing sample `(x, n)` on column `x` adds row `n` to the column. -/
theorem Engine.push_self (h : ∀ i < k, e.lb i x = bufferedRow k zero src x n i) (hi : i < k) :
    e.push k x (src x n) i x = bufferedRow k zero src x (n + 1) i := by
  rcases Nat.lt_or_eq_of_le (Nat.succ_le_of_lt hi) with hlt | heq
  · rw [Engine.push_older hlt, bufferedRow_succ, h _ hlt]
  · rw [Engine.push_newest heq, bufferedRow_newest heq]

theorem Engine.HoldsRows.step (h : e.HoldsRows b k zero src x y) :
    (e.step k zero x (src x y)).HoldsRows b k zero src (x + 1) y := by
  intro i hi x' hx'
  rw [Engine.step_lb]
  by_cases hcol : x' = x
  · subst hcol
    rw [if_pos (Nat.lt_succ_self x')]
    exact Engine.push_self (fun i hi => by simpa using h i hi x' hx') hi
  · have hsame : x' < x + 1 ↔ x' < x := by omega
    rw [Engine.push_of_ne hcol, h i hi x' hx']
    simp only [hsame]

/-- The end of row `y` is the start of row `y + 1`. -/
theorem Engine.HoldsRows.next_row (h : e.HoldsRows b k zero src b.width y) :
    e.HoldsRows b k zero src 0 (y + 1) := fun i hi x' hx' => by
  simpa [hx'] using h i hi x' hx'

/-- A row of steps, from the invariant at its first pixel. -/
theorem Engine.holdsRows_along_row
    (h : (Engine.after b k zero src (y * b.width)).HoldsRows b k zero src 0 y) (hx : x ≤ b.width) :
    (Engine.after b k zero src (x + y * b.width)).HoldsRows b k zero src x y := by
  induction x with
  | zero => rwa [Nat.zero_add]
  | succ x ih =>
    rw [Nat.add_right_comm, Engine.after_succ hx]
    exact (ih (Nat.le_of_succ_le hx)).step

theorem Engine.holdsRows_row_start (y : Nat) :
    (Engine.after b k zero src (y * b.width)).HoldsRows b k zero src 0 y := by
  induction y with
  | zero =>
    rw [Nat.zero_mul]
    exact Engine.holdsRows_start
  | succ y ih =>
    rw [Nat.succ_mul, Nat.add_comm (y * b.width)]
    exact (Engine.holdsRows_along_row ih le_rfl).next_row

/-- The line buffer after the step at `(x, y)`. -/
theorem Engine.holdsRows_after (hx : x < b.width) :
    (Engine.after b k zero src (x + y * b.width + 1)).HoldsRows b k zero src (x + 1) y := by
  rw [Nat.add_right_comm]
  exact Engine.holdsRows_along_row (Engine.holdsRows_row_start y) hx

theorem Engine.after_lb_of_le (hx : x < b.width) (hi : i < k) (hx' : x' ≤ x) :
    (Engine.after b k zero src (x + y * b.width + 1)).lb i x' = bufferedRow k zero src x' (y + 1) i := by
  rw [Engine.holdsRows_after hx i hi x' (by omega), if_pos (by omega)]

theorem Engine.after_lb_of_lt (hi : i < k) (hx : x < x') (hx' : x' < b.width) :
    (Engine.after b k zero src (x + y * b.width + 1)).lb i x' = bufferedRow k zero src x' y i := by
  rw [Engine.holdsRows_after (by omega) i hi x' hx', if_neg (by omega)]

/-! ### The window (R122, R123) -/

theorem window_outside (h : x + j < k - 1) : window k zero src x y i j = zero :=
  if_neg fun hin => absurd hin.1 (Nat.not_le.mpr h)

/-- One column further right, the window is the old one shifted by a column. -/
theorem window_succ : window k zero src (x + 1) y i j = window k zero src x y i (j + 1) := by
  rw [window, window, Nat.add_assoc, Nat.add_comm 1 j]

/-- The newest column of the window is column `x` of the line buffer. -/
theorem window_newest (hj : j + 1 = k) :
    window k zero src x y i j = bufferedRow k zero src x (y + 1) i := by
  obtain rfl : j = k - 1 := by omega
  simp [window, bufferedRow_of_pos (show 0 < k by omega)]

theorem Engine.after_win_outside (hx : x < b.width) (h : x + j < k - 1) :
    (Engine.after b k zero src (x + y * b.width + 1)).win i j = window k zero src x y i j := by
  rw [Engine.after_succ hx, Engine.step_win_outside h, window_outside h]

theorem Engine.after_win_newest (hx : x < b.width) (hi : i < k) (hj : j + 1 = k) :
    (Engine.after b k zero src (x + y * b.width + 1)).win i j = window k zero src x y i j := by
  rw [Engine.after_succ hx, Engine.step_win_newest hj, ← Engine.after_succ hx,
    Engine.after_lb_of_le hx hi le_rfl, window_newest hj]

/-- The window register after the step at `(x, y)`: every column is the newest column of the line buffer, zero
padding, or a column of the window one step earlier in the same row. -/
theorem Engine.after_win (hx : x < b.width) (hi : i < k) (hj : j < k) :
    (Engine.after b k zero src (x + y * b.width + 1)).win i j = window k zero src x y i j := by
  induction x generalizing j with
  | zero =>
    rcases Nat.lt_or_eq_of_le (Nat.succ_le_of_lt hj) with hlt | hnew
    · exact Engine.after_win_outside hx (by omega)
    · exact Engine.after_win_newest hx hi hnew
  | succ x ih =>
    rcases Nat.lt_or_eq_of_le (Nat.succ_le_of_lt hj) with hlt | hnew
    · rcases Nat.lt_or_ge (x + 1 + j) (k - 1) with hout | hin
      · exact Engine.after_win_outside hx hout
      · rw [Engine.after_succ hx, Engine.step_win_shift hin hlt, Nat.add_right_comm, ih (by omega) hlt,
          window_succ]
    · exact Engine.after_win_newest hx hi hnew

/-- Settles O37: the window by induction along the row, the line buffer by its invariant over raster order. -/
theorem stepMechanismProducesTheWindow : Obligations.StepMechanismProducesTheWindow :=
  fun _ _ _ _ _ _ _ _ hk hi hx _ =>
    ⟨fun _ hj => Engine.after_win hx hi hj,
      fun _ hx' => (Engine.after_lb_of_le hx hi hx').trans (bufferedRow_of_pos hk),
      fun _ hlt hx' => Engine.after_lb_of_lt hi hlt hx'⟩

end Sys2Proof.Machine
end

section
/-!
PROOFS. The family `43_gradient.md`: the magnitude (R161) and the direction (R162) of a gradient.
-/

namespace Sys2Proof.Machine

/-! ### The magnitude (R161) -/

/-- `(m + 1/2)² = m·m + m + 1/4` lies strictly between two integers: this is the test of `roundSqrt`. -/
theorem add_half_le_sqrt_iff (n m : Nat) : (m : ℝ) + 1 / 2 ≤ √n ↔ m * m + m < n := by
  have hsq : ((m : ℝ) + 1 / 2) ^ 2 = ((m * m + m : Nat) : ℝ) + 1 / 4 := by push_cast; ring
  rw [Real.le_sqrt' (by positivity), hsq]
  constructor
  · intro h
    exact_mod_cast (by linarith : ((m * m + m : Nat) : ℝ) < n)
  · intro h
    have hsucc : ((m * m + m : Nat) : ℝ) + 1 ≤ n := by exact_mod_cast h
    linarith

theorem sqrt_ne_add_half (n m : Nat) : √(n : ℝ) ≠ m + 1 / 2 := by
  intro h
  have hsq : (n : ℝ) = (m + 1 / 2) ^ 2 := by rw [← h, Real.sq_sqrt n.cast_nonneg]
  have hodd : 4 * n = 4 * (m * m + m) + 1 := by
    have : 4 * (n : ℝ) = 4 * (m * m + m) + 1 := by rw [hsq]; ring
    exact_mod_cast this
  omega

theorem round_sqrt_eq_roundSqrt (n : Nat) : round √(n : ℝ) = roundSqrt n := by
  have hlow : (n.sqrt : ℝ) ≤ √n := Real.nat_sqrt_le_real_sqrt
  have hhigh : √(n : ℝ) < n.sqrt + 1 := Real.real_sqrt_lt_nat_sqrt_succ
  rw [round_eq_iff, roundSqrt, isqrt_eq_sqrt, Set.mem_Ico]
  split
  next hup =>
    have := (add_half_le_sqrt_iff n n.sqrt).mpr hup
    constructor <;> push_cast <;> linarith
  next hdown =>
    have := not_le.mp (mt (add_half_le_sqrt_iff n n.sqrt).mp hdown)
    constructor <;> push_cast <;> linarith

theorem toNat_sum_squares (gx gy : Int) : ((gx * gx + gy * gy).toNat : ℝ) = (gx : ℝ) ^ 2 + (gy : ℝ) ^ 2 := by
  have hnonneg : 0 ≤ gx * gx + gy * gy := add_nonneg (mul_self_nonneg gx) (mul_self_nonneg gy)
  rw [← Int.cast_natCast, Int.toNat_of_nonneg hnonneg]
  push_cast
  ring

/-- Settles O33: `roundSqrt` is the real rounding, and a half-integer root would make `4·n` odd. -/
theorem magnitudeIsRoundedRoot : Obligations.MagnitudeIsRoundedRoot := by
  refine ⟨fun gx gy => ?_, sqrt_ne_add_half⟩
  rw [← toNat_sum_squares, round_sqrt_eq_roundSqrt]
  simp [magnitude, magMax]

/-! ### The direction (R162) -/

/-- The four buckets of the quotient, each with its bounds: they are disjoint and leave nothing out. -/
theorem directionOfSlope_eq_iff (t : Int) :
    (directionOfSlope t = .deg135 ↔ -618 < t ∧ t ≤ -106) ∧ (directionOfSlope t = .deg0 ↔ -106 < t ∧ t ≤ 106) ∧
    (directionOfSlope t = .deg45 ↔ 106 < t ∧ t < 618) ∧ (directionOfSlope t = .deg90 ↔ t ≤ -618 ∨ 618 ≤ t) := by
  unfold directionOfSlope dirT1 dirT2
  split_ifs <;> simp only [true_iff, false_iff] <;> omega

@[simp] theorem direction_zero_left (gy : Int) : direction 0 gy = .deg90 := if_pos rfl

theorem direction_of_ne_zero {gx : Int} (hgx : gx ≠ 0) (gy : Int) :
    direction gx gy = directionOfSlope (tdiv (gy * 256) gx) := if_neg hgx

/-- Settles O34: off the vertical the direction is the bucket of the quotient. -/
theorem directionBuckets : Obligations.DirectionBuckets := by
  refine ⟨direction_zero_left, fun gx gy hgx => ?_, by decide⟩
  rw [direction_of_ne_zero hgx]
  exact directionOfSlope_eq_iff (tdiv (gy * 256) gx)

end Sys2Proof.Machine
end

section
/-!
PROOFS. The family `45_corner.md`: what CORNER_NMS lets through (R218, R219), and applying it twice (R220).
-/

namespace Sys2Proof.Machine

variable {α : Type} {b : Build} {k n m x y i j : Nat}

/-! ### The window and its band (R123, R125) -/

theorem inband_iff : inband b k x y = true ↔ InBand b k x y := by
  simp only [inband, InBand, Bool.and_eq_true, decide_eq_true_eq, and_assoc]

/-- No column or row of a 5×5 window at `x, y ≥ 4` lies outside the frame. -/
theorem window_five_inside {zero : α} {src : Nat → Nat → α} (hx : 4 ≤ x) (hy : 4 ≤ y) :
    window 5 zero src x y i j = src (x - 4 + j) (y - 4 + i) := by
  rw [window, if_pos (by omega)]
  congr 1 <;> omega

/-- The centre of the window of an in-band pixel is the source pixel two columns left and two rows up. -/
theorem window_five_centre {zero : α} {src : Nat → Nat → α} (h : InBand b 5 x y) :
    window 5 zero src x y 2 2 = src (x - 2) (y - 2) := by
  obtain ⟨hx, -, hy, -⟩ := h
  rw [window_five_inside (by omega) (by omega)]
  congr 1 <;> omega

@[simp] theorem window_const {zero : α} : window k zero (fun _ _ => zero) x y = fun _ _ => zero := by
  funext i j
  exact ite_self zero

/-! ### Suppression of corners (R218, R219) -/

variable {w src : Nat → Nat → WPixel}

theorem maxTo_le_iff {f : Nat → Nat} : maxTo n f ≤ m ↔ ∀ i < n, f i ≤ m := by
  induction n with
  | zero => simp [maxTo]
  | succ n ih => rw [maxTo, max_le_iff, ih, Nat.forall_lt_succ_right]

theorem maxCorner_le_iff :
    maxCorner w ≤ m ↔ ∀ i < 5, ∀ j < 5, (w i j).kind = .corner → (w i j).value.toNat ≤ m := by
  simp only [maxCorner, maxTo_le_iff]
  refine forall₄_congr fun i _ j _ => ?_
  split
  next hcorner => simp [hcorner]
  next hother => simp [hother]

/-- A centre that is no corner, or is a largest one, passes through. -/
theorem suppressCorner_of_kept (h : (w 2 2).kind = .corner → maxCorner w ≤ (w 2 2).value.toNat) :
    suppressCorner w = w 2 2 := by
  unfold suppressCorner
  split
  next hcorner => exact if_pos (h hcorner)
  next => rfl

/-- A corner comes out only where the centre is a corner that no corner of the window exceeds. -/
theorem suppressCorner_survivor (h : (suppressCorner w).kind = .corner) :
    suppressCorner w = w 2 2 ∧ maxCorner w ≤ (w 2 2).value.toNat := by
  unfold suppressCorner at h ⊢
  split_ifs at h ⊢ with hcorner hmax
  · exact ⟨rfl, hmax⟩
  · cases h
  · exact absurd h hcorner

theorem cornerNmsOut_of_inBand (h : InBand b 5 x y) :
    cornerNmsOut b src x y = suppressCorner (window 5 zeroWPix src x y) :=
  if_pos (inband_iff.mpr h)

theorem cornerNmsOut_of_not_inBand (h : ¬ InBand b 5 x y) : cornerNmsOut b src x y = zeroWPix :=
  if_neg (mt inband_iff.mp h)

/-- An in-band pixel whose centre is no corner passes through, two columns right and two rows down. -/
theorem cornerNmsOut_of_ne_corner (h : InBand b 5 x y) (hkind : (src (x - 2) (y - 2)).kind ≠ .corner) :
    cornerNmsOut b src x y = src (x - 2) (y - 2) := by
  have hcentre : window 5 zeroWPix src x y 2 2 = src (x - 2) (y - 2) := window_five_centre h
  rw [← hcentre] at hkind
  rw [cornerNmsOut_of_inBand h, suppressCorner_of_kept fun hcorner => absurd hcorner hkind, hcentre]

/-- A corner of the output stands in the band, is its window's centre, and no corner of that window exceeds it. -/
theorem cornerNmsOut_survivor (h : (cornerNmsOut b src x y).kind = .corner) :
    InBand b 5 x y ∧ cornerNmsOut b src x y = src (x - 2) (y - 2) ∧
      ∀ i < 5, ∀ j < 5, (src (x - 4 + j) (y - 4 + i)).kind = .corner →
        (src (x - 4 + j) (y - 4 + i)).value.toNat ≤ (cornerNmsOut b src x y).value.toNat := by
  by_cases hband : InBand b 5 x y
  · rw [cornerNmsOut_of_inBand hband] at h ⊢
    obtain ⟨hout, hmax⟩ := suppressCorner_survivor h
    refine ⟨hband, hout.trans (window_five_centre hband), ?_⟩
    obtain ⟨hx, -, hy, -⟩ := hband
    rw [maxCorner_le_iff] at hmax
    simpa only [hout, window_five_inside (show 4 ≤ x by omega) (show 4 ≤ y by omega)] using hmax
  · rw [cornerNmsOut_of_not_inBand hband] at h
    cases h

/-! ### CORNER_NMS twice (R220) -/

/-- Around a survivor of the first pass, every other survivor comes from the window in which the first one was the
largest corner, so the second pass demotes none. -/
theorem cornerNmsOut_twice_of_inBand (h : InBand b 5 x y) :
    cornerNmsOut b (cornerNmsOut b src) x y = cornerNmsOut b src (x - 2) (y - 2) := by
  rw [cornerNmsOut_of_inBand h, suppressCorner_of_kept ?_, window_five_centre h]
  rw [window_five_centre h, maxCorner_le_iff]
  intro hcentre i hi j hj hother
  obtain ⟨hx, -, hy, -⟩ := h
  rw [window_five_inside (by omega) (by omega)] at hother ⊢
  obtain ⟨⟨hxc, -, hyc, -⟩, -, hlargest⟩ := cornerNmsOut_survivor hcentre
  obtain ⟨-, hsrc, -⟩ := cornerNmsOut_survivor hother
  rw [show x - 4 + j - 2 = x - 2 - 4 + j by omega, show y - 4 + i - 2 = y - 2 - 4 + i by omega] at hsrc
  rw [hsrc] at hother ⊢
  exact hlargest i hi j hj hother

/-- A frame of edges loses its first two in-band columns and rows to the second pass. -/
theorem cornerNmsOut_not_idempotent :
    InBand ⟨11, 11, 1⟩ 5 5 5 ∧
      cornerNmsOut ⟨11, 11, 1⟩ (cornerNmsOut ⟨11, 11, 1⟩ fun _ _ => ⟨1, .edge⟩) 5 5 = zeroWPix ∧
      cornerNmsOut ⟨11, 11, 1⟩ (fun _ _ => ⟨1, .edge⟩) 5 5 = ⟨1, .edge⟩ := by
  have hband : InBand ⟨11, 11, 1⟩ 5 5 5 := by unfold InBand; decide
  have hout : ¬ InBand ⟨11, 11, 1⟩ 5 3 3 := by unfold InBand; decide
  exact ⟨hband, (cornerNmsOut_twice_of_inBand hband).trans (cornerNmsOut_of_not_inBand hout),
    cornerNmsOut_of_ne_corner hband nofun⟩

/-- Settles O36: the shift by the largest corner of the first window, the failure of idempotence at `(5, 5)` of an
11×11 frame of edges. -/
theorem cornerNmsTwiceIsOnceShifted : Obligations.CornerNmsTwiceIsOnceShifted := by
  refine ⟨fun b src x y => ⟨cornerNmsOut_twice_of_inBand, cornerNmsOut_of_not_inBand⟩, ?_⟩
  obtain ⟨hband, htwice, honce⟩ := cornerNmsOut_not_idempotent
  refine ⟨⟨11, 11, 1⟩, fun _ _ => ⟨1, .edge⟩, 5, 5, by decide, hband, ?_⟩
  rw [htwice, honce]
  decide

end Sys2Proof.Machine
end

section
/-!
PROOFS. The family `45_corner.md`: HARRIS of an all-black frame (R221, R237), stage by stage, and what a completed
command leaves when its result is a frame.
-/

namespace Sys2Proof.Machine

variable {b : Build} {s : State} {r : InFlight} {i : Instr} {d : PlaneNo} {t : Tag} {k x y : Nat}

/-! ### Completion with a frame (R114, R286) -/

/-- A command in flight whose result is the frame of `out` writes `out x y` at every pixel, and the maximum of its
result if it has one. -/
theorem completesBoth_of_resultOf {out : Nat → Nat → Word} (h : s.inflight = some r) (hi : r.instr = i)
    (hplane : (resultOf i s.build r).plane = some (d, t, frameOf s.build out)) :
    CompletesBoth i s d t out (s.storeMax (resultOf i s.build r).max).maxr
      (s.storeMax (resultOf i s.build r).max).maxv := by
  refine ⟨_, exec_inflight h hi, ?_, fun x y hx hy => ?_, fun addr haddr => ?_⟩
  · rw [← State.complete_maxr, ← State.complete_maxv]
    cases hmax : (resultOf i s.build r).max <;> simp only [State.complete, hplane, hmax] <;> rfl
  · rw [State.planeWord, State.complete_mem, hplane]
    exact planeWord_storePlane hx hy
  · rw [State.complete_mem, hplane, State.storePlane_some_mem]
    exact Memory.read_writeWords_other (by simpa using haddr)

/-! ### Frames of zero elements -/

/-- A frame of zero elements reads zero at every coordinate, in the frame and outside it. -/
@[simp] theorem frameAt_frameOf_const {α : Type} {zero : α} :
    frameAt b zero (frameOf b fun _ _ => zero) = fun _ _ => zero := by
  funext x y
  unfold frameAt
  rw [List.getD_eq_getElem?_getD]
  cases hget : (frameOf b fun _ _ => zero)[x + y * b.width]? with
  | none => rfl
  | some v =>
    obtain ⟨hlt, hv⟩ := List.getElem?_eq_some_iff.mp hget
    rw [← hv, getElem_frameOf]
    rfl

@[simp] theorem sumTo_zero (n : Nat) : sumTo n (fun _ => 0) = 0 := by
  induction n with
  | zero => rfl
  | succ n ih => rw [sumTo, ih, Int.add_zero]

@[simp] theorem convolve_zero (kernel : Nat → Nat → Int) : convolve k kernel (fun _ _ => 0) = 0 := by
  simp [convolve]

@[simp] theorem windowU8_zero : windowU8 k (fun _ _ => 0#8) x y = fun _ _ => 0 := by
  funext i j
  simp [windowU8]

/-! ### The stages of HARRIS on a frame of zeros -/

@[simp] theorem luma_zeroRgb : luma zeroRgb = 0#8 := by decide

@[simp] theorem gauss3Out_zero : gauss3Out (fun _ _ => 0#8) = fun _ _ => 0#8 := by
  funext x y
  simp [gauss3Out, asr]

@[simp] theorem sobelxOut_zero : sobelxOut (fun _ _ => 0#8) = fun _ _ => 0#16 := by
  funext x y
  simp [sobelxOut, gradX]

@[simp] theorem sobelyOut_zero : sobelyOut (fun _ _ => 0#8) = fun _ _ => 0#16 := by
  funext x y
  simp [sobelyOut, gradY]

@[simp] theorem productOut_zero : productOut 0#16 0#16 = 0#16 := by decide

@[simp] theorem responseOut_zero : responseOut 0#16 0#16 0#16 = 0#32 := by decide

/-- A score of 0 is an edge, whatever the maximum and the threshold margin: the edge test comes first (R213). -/
@[simp] theorem classifyOut_zero (mx thresUp : Int) : classifyOut 0 mx thresUp = ⟨0, .edge⟩ := by
  simp [classifyOut, harrisLow, wrap, trunc, asr]

theorem frameMax_const (v : Word) : frameMax b (fun _ _ => v) = v.toInt := by
  unfold frameMax frameOf
  rw [List.foldl_map, List.foldl_fixed' fun _ => ite_self _]

theorem harrisScores_black : harrisScores b (fun _ _ => zeroRgb) = frameOf b fun _ _ => 0#32 := by
  simp [harrisScores]

theorem frameAt_scores_zero : frameAt b 0 (frameOf b fun _ _ => 0#32) = fun _ _ => 0#32 :=
  frameAt_frameOf_const

/-- Edges pass CORNER_NMS, which leaves them in the band of size 5 (R219). -/
theorem harrisClasses_zero (thresUp mx : Int) :
    harrisClasses b thresUp mx (frameOf b fun _ _ => 0#32) =
      frameOf b fun x y =>
        if 5 ≤ x ∧ x + 5 < b.width ∧ 5 ≤ y ∧ y + 5 < b.height then ⟨0, .edge⟩ else zeroWPix := by
  simp only [harrisClasses, frameAt_scores_zero, BitVec.toInt_zero, classifyOut_zero]
  refine frameOf_congr fun x y hx hy => ?_
  have hcentre : frameAt b zeroWPix (frameOf b fun _ _ => ⟨0, .edge⟩) (x - 2) (y - 2) = ⟨0, .edge⟩ :=
    frameAt_frameOf (by omega) (by omega)
  split
  next hband => rw [cornerNmsOut_of_ne_corner hband (by rw [hcentre]; decide), hcentre]
  next hout => exact cornerNmsOut_of_not_inBand hout

/-! ### HARRIS of a black frame (R221, R237) -/

theorem decodeRgb_black {w : Word} (h : bits w 23 0 = 0) : decodeRgb w = zeroRgb := by
  unfold bits at h
  simp only [decodeRgb, zeroRgb, Rgb.mk.injEq]
  refine ⟨BitVec.eq_of_toNat_eq ?_, BitVec.eq_of_toNat_eq ?_, BitVec.eq_of_toNat_eq ?_⟩ <;>
    simp only [BitVec.extractLsb'_toNat, Nat.shiftRight_eq_div_pow, BitVec.ofNat_eq_ofNat, BitVec.toNat_ofNat] <;>
    omega

theorem srcRgb_black (h : ∀ x y, bits (r.pixel b 0 x y) 23 0 = 0) : r.srcRgb b 0 = fun _ _ => zeroRgb := by
  funext x y
  exact decodeRgb_black (h x y)

/-- The whole result of HARRIS on a black frame: edges in the band, and the maximum 0. -/
theorem harrisResult_black (h : ∀ x y, bits (r.pixel b 0 x y) 23 0 = 0) :
    harrisResult d b r =
      { plane := some (d, .wpix, frameOf b fun x y =>
          if 5 ≤ x ∧ x + 5 < b.width ∧ 5 ≤ y ∧ y + 5 < b.height then 0x00010000 else 0)
        max := some 0 } := by
  have hedge : encodeWPix ⟨0, .edge⟩ = 0x00010000 := by decide
  have hflat : encodeWPix zeroWPix = 0 := by decide
  simp only [harrisResult, srcRgb_black h, harrisScores_black, harrisClasses_zero, map_frameOf,
    apply_ite encodeWPix, hedge, hflat, frameAt_scores_zero, frameMax_const, BitVec.ofInt_toInt]
  rfl

/-- Settles O41: every stage keeps the frame 0 up to the scores, so every pixel is an edge and the maximum is 0. -/
theorem harrisOfBlackFrame : Obligations.HarrisOfBlackFrame := by
  intro s r d a hflight hinstr hblack
  have hresult : resultOf (.harris d a) s.build r = _ := harrisResult_black hblack
  have hdone := completesBoth_of_resultOf hflight hinstr (congrArg Result.plane hresult)
  rwa [hresult] at hdone

end Sys2Proof.Machine
end

section
/-!
PROOFS. The family `46_pipelines.md`, first part: a command word decodes to its command, and a stage that reads a frame
from a plane computes from the elements of that frame.
-/

namespace Sys2Proof.Machine

/-! ### A command word decodes to its command (R91, R92) -/

variable {w : Word}

theorem planeField_eq_zero_iff {lo : Nat} : planeField w lo = 0 ↔ bits w (lo + 3) lo = 0 := by
  have hlt : bits w (lo + 3) lo < 16 := by
    have := Nat.mod_lt (w.toNat / 2 ^ lo) (show 16 > 0 by omega)
    simpa [bits] using this
  simp [planeField, Fin.ext_iff, Nat.mod_eq_of_lt hlt]

/-- The bits above SRC2 are SRC3 and RSV. -/
theorem bits_above_src2 (h20 : planeField w 20 = 0) (h24 : bits w 31 24 = 0) : bits w 31 20 = 0 := by
  rw [planeField_eq_zero_iff] at h20
  unfold bits at h20 h24 ⊢
  omega

/-- The bits above SRC1 are SRC2, SRC3 and RSV. -/
theorem bits_above_src1 (h16 : planeField w 16 = 0) (h20 : planeField w 20 = 0) (h24 : bits w 31 24 = 0) :
    bits w 31 16 = 0 := by
  rw [planeField_eq_zero_iff] at h16 h20
  unfold bits at h16 h20 h24 ⊢
  omega

/-- The fields of a command's word select its arm of the decoder and are 0 where the command has none. -/
theorem decode_encode (i : Instr) : decode (encode i) = .ok i := by
  obtain ⟨hop, hrsv, hdst, hsrc⟩ := Laws.EncodedFields.all i
  cases i with
  | product d a c =>
    simp_all [decode, formDSS, bits_above_src2, Instr.opcode, Instr.dst?, Instr.sources]
  | response d a c e =>
    simp_all [decode, formDSSS, Instr.opcode, Instr.dst?, Instr.sources]
  | globalMax a =>
    have hunused := planeField_eq_zero_iff.mp hdst
    simp_all [decode, formS, bits_above_src1, Instr.opcode, Instr.dst?, Instr.sources]
  | _ =>
    simp_all [decode, formDS, bits_above_src1, Instr.opcode, Instr.dst?, Instr.sources]

/-! ### Elements survive their encoding (R99 to R106) -/

theorem decodeU8_encodeU8 (e : Byte) : decodeU8 (encodeU8 e) = e := by
  rw [decodeU8, encodeU8, BitVec.extractLsb'_setWidth_of_le (by decide), BitVec.extractLsb'_eq_self]

theorem decodeU16_encodeU16 (e : BitVec 16) : decodeU16 (encodeU16 e) = e := by
  rw [decodeU16, encodeU16, BitVec.extractLsb'_setWidth_of_le (by decide), BitVec.extractLsb'_eq_self]

theorem decodeS16_encodeS16 (e : BitVec 16) : decodeS16 (encodeS16 e) = e := by
  refine BitVec.eq_of_getLsbD_eq fun k hk => ?_
  have hk32 : k < 32 := by omega
  rw [decodeS16, encodeS16, BitVec.getLsbD_extractLsb', BitVec.getLsbD_signExtend]
  simp [hk, hk32]

theorem Direction.ofCode_code (c : Direction) : Direction.ofCode c.code = c := by cases c <;> rfl

theorem PixelKind.ofCode_code (c : PixelKind) : PixelKind.ofCode c.code = c := by cases c <;> rfl

theorem decodeDir_encodeDir (e : DirPixel) : decodeDir (encodeDir e) = e := by
  have hmag : (encodeDir e).extractLsb' 0 8 = e.mag := BitVec.extractLsb'_append_eq_right
  have hdir : (encodeDir e).extractLsb' 8 2 = e.dir.code :=
    (BitVec.extractLsb'_append_eq_of_le (Nat.le_refl 8)).trans BitVec.extractLsb'_append_eq_right
  rw [decodeDir, hmag, hdir, Direction.ofCode_code]

theorem decodeWPix_encodeWPix (e : WPixel) : decodeWPix (encodeWPix e) = e := by
  have hvalue : (encodeWPix e).extractLsb' 0 16 = e.value := BitVec.extractLsb'_append_eq_right
  have hkind : (encodeWPix e).extractLsb' 16 2 = e.kind.code :=
    (BitVec.extractLsb'_append_eq_of_le (Nat.le_refl 16)).trans BitVec.extractLsb'_append_eq_right
  rw [decodeWPix, hvalue, hkind, PixelKind.ofCode_code]

/-! ### Frames written to a plane and read back (R18, R99) -/

variable {α : Type} {b : Build} {r : InFlight} {k : Nat} {d a c e : PlaneNo}

/-- A frame read back from its words gives its elements, in the frame and outside it. -/
theorem decoded_frame {dec : Word → α} {enc : α → Word} {zero : α} {ws : List Word} {g : Frame α}
    (hdec : ∀ e, dec (enc e) = e) (hzero : dec 0 = zero) (hws : ws = g.map enc) :
    (fun x y => dec (frameAt b 0 ws x y)) = frameAt b zero g := by
  funext x y
  simp only [hws, frameAt, List.getD_eq_getElem?_getD, List.getElem?_map]
  cases g[x + y * b.width]? with
  | none => exact hzero
  | some e => exact hdec e

theorem srcU8_of_words {g : Frame Byte} (h : r.srcWords k = g.map encodeU8) : r.srcU8 b k = frameAt b 0 g :=
  decoded_frame decodeU8_encodeU8 rfl h

theorem srcDir_of_words {g : Frame DirPixel} (h : r.srcWords k = g.map encodeDir) :
    r.srcDir b k = frameAt b zeroDir g :=
  decoded_frame decodeDir_encodeDir rfl h

theorem srcS16_of_words {g : Frame (BitVec 16)} (h : r.srcWords k = g.map encodeS16) :
    r.srcS16 b k = frameAt b 0 g :=
  decoded_frame decodeS16_encodeS16 rfl h

theorem srcU16_of_words {g : Frame (BitVec 16)} (h : r.srcWords k = g.map encodeU16) :
    r.srcU16 b k = frameAt b 0 g :=
  decoded_frame decodeU16_encodeU16 rfl h

theorem srcS32_of_words {g : Frame Word} (h : r.srcWords k = g.map encodeS32) : r.srcS32 b k = frameAt b 0 g :=
  decoded_frame (dec := decodeS32) (enc := encodeS32) (fun _ => rfl) rfl h

theorem srcWPix_of_words {g : Frame WPixel} (h : r.srcWords k = g.map encodeWPix) :
    r.srcWPix b k = frameAt b zeroWPix g :=
  decoded_frame decodeWPix_encodeWPix rfl h

/-! ### The stages as functions of frames (R230, R234) -/

theorem resultOf_togray :
    resultOf (.togray d a) b r = .toPlane d .u8 ((frameOf b fun x y => luma (r.srcRgb b 0 x y)).map encodeU8) := by
  rw [map_frameOf]
  rfl

theorem resultOf_torgb {g : Frame Byte} (h : r.srcWords 0 = g.map encodeU8) :
    resultOf (.torgb d a) b r =
      .toPlane d .rgb ((frameOf b fun x y => broadcast (frameAt b 0 g x y)).map encodeRgb) := by
  simp only [resultOf, srcU8_of_words h, map_frameOf]

theorem resultOf_gauss3 {g : Frame Byte} (h : r.srcWords 0 = g.map encodeU8) :
    resultOf (.gauss3 d a) b r = .toPlane d .u8 ((frameOf b (gauss3Out (frameAt b 0 g))).map encodeU8) := by
  simp only [resultOf, srcU8_of_words h, map_frameOf]

theorem resultOf_sobel {g : Frame Byte} (h : r.srcWords 0 = g.map encodeU8) :
    resultOf (.sobel d a) b r = .toPlane d .dir ((frameOf b (sobelOut b (frameAt b 0 g))).map encodeDir) := by
  simp only [resultOf, srcU8_of_words h, map_frameOf]

theorem resultOf_sobelx {g : Frame Byte} (h : r.srcWords 0 = g.map encodeU8) :
    resultOf (.sobelx d a) b r = .toPlane d .s16 ((frameOf b (sobelxOut (frameAt b 0 g))).map encodeS16) := by
  simp only [resultOf, srcU8_of_words h, map_frameOf]

theorem resultOf_sobely {g : Frame Byte} (h : r.srcWords 0 = g.map encodeU8) :
    resultOf (.sobely d a) b r = .toPlane d .s16 ((frameOf b (sobelyOut (frameAt b 0 g))).map encodeS16) := by
  simp only [resultOf, srcU8_of_words h, map_frameOf]

theorem resultOf_edgeNms {g : Frame DirPixel} (h : r.srcWords 0 = g.map encodeDir) :
    resultOf (.edgeNms d a) b r =
      .toPlane d .u8 ((frameOf b (edgeNmsOut b (frameAt b zeroDir g))).map encodeU8) := by
  simp only [resultOf, srcDir_of_words h, map_frameOf]

theorem resultOf_threshold {g : Frame Byte} {arg : Word} (harg : r.arg = arg) (h : r.srcWords 0 = g.map encodeU8) :
    resultOf (.threshold d a) b r =
      .toPlane d .u8 ((frameOf b fun x y => thresholdOut arg.toInt (frameAt b 0 g x y)).map encodeU8) := by
  simp only [resultOf, srcU8_of_words h, InFlight.argInt, harg, map_frameOf]

theorem resultOf_borderZero {g : Frame Byte} {margin : Word} (hm : r.margin = margin)
    (h : r.srcWords 0 = g.map encodeU8) :
    resultOf (.borderZero d a) b r =
      .toPlane d .u8 ((frameOf b (borderZeroOut b margin.toNat (frameAt b 0 g))).map encodeU8) := by
  simp only [resultOf, srcU8_of_words h, InFlight.marginNat, hm, map_frameOf]

theorem resultOf_product {g g' : Frame (BitVec 16)} (h : r.srcWords 0 = g.map encodeS16)
    (h' : r.srcWords 1 = g'.map encodeS16) :
    resultOf (.product d a c) b r =
      .toPlane d .u16 ((frameOf b fun x y => productOut (frameAt b 0 g x y) (frameAt b 0 g' x y)).map encodeU16) := by
  simp only [resultOf, srcS16_of_words h, srcS16_of_words h', map_frameOf]

theorem resultOf_response {g g' g'' : Frame (BitVec 16)} (h : r.srcWords 0 = g.map encodeU16)
    (h' : r.srcWords 1 = g'.map encodeU16) (h'' : r.srcWords 2 = g''.map encodeU16) :
    resultOf (.response d a c e) b r =
      .toPlane d .s32 ((frameOf b fun x y =>
        responseOut (frameAt b 0 g x y) (frameAt b 0 g' x y) (frameAt b 0 g'' x y)).map encodeS32) := by
  simp only [resultOf, srcU16_of_words h, srcU16_of_words h', srcU16_of_words h'', map_frameOf]

theorem resultOf_globalMax {g : Frame Word} (h : r.srcWords 0 = g.map encodeS32) :
    resultOf (.globalMax a) b r = ⟨none, some (BitVec.ofInt 32 (frameMax b (frameAt b 0 g)))⟩ := by
  simp only [resultOf, srcS32_of_words h]

theorem resultOf_classify {g : Frame Word} {mx : Int} {arg : Word} (harg : r.arg = arg) (hmx : r.maxr.toInt = mx)
    (h : r.srcWords 0 = g.map encodeS32) :
    resultOf (.classify d a) b r =
      .toPlane d .wpix ((frameOf b fun x y =>
        classifyOut (frameAt b 0 g x y).toInt mx arg.toInt).map encodeWPix) := by
  simp only [resultOf, srcS32_of_words h, InFlight.argInt, InFlight.maxInt, harg, hmx, map_frameOf]

theorem resultOf_cornerNms {g : Frame WPixel} (h : r.srcWords 0 = g.map encodeWPix) :
    resultOf (.cornerNms d a) b r =
      .toPlane d .wpix ((frameOf b (cornerNmsOut b (frameAt b zeroWPix g))).map encodeWPix) := by
  simp only [resultOf, srcWPix_of_words h, map_frameOf]

/-- The running maximum of a list of words, started at a word, is a word of 32 bits. -/
theorem exists_word_foldl_max (vs : List Word) (w : Word) :
    ∃ m : Word, vs.foldl (fun mx v => if mx < v.toInt then v.toInt else mx) w.toInt = m.toInt := by
  induction vs generalizing w with
  | nil => exact ⟨w, rfl⟩
  | cons v vs ih =>
    rw [List.foldl_cons]
    split
    · exact ih v
    · exact ih w

/-- The maximum of a frame is one of its scores, so it fits `MAXR` (R210). -/
theorem toInt_ofInt_frameMax (src : Nat → Nat → Word) :
    (BitVec.ofInt 32 (frameMax b src)).toInt = frameMax b src := by
  obtain ⟨m, hm⟩ := exists_word_foldl_max (frameOf b src) (src 0 0)
  rw [frameMax, hm, BitVec.ofInt_toInt]

end Sys2Proof.Machine
end

section
/-!
PROOFS. The family `46_pipelines.md`, second part: a command the host issues and waits for, as three steps; what it
leaves in each plane; and states that agree but for a list of planes.
-/

namespace Sys2Proof.Machine

variable {s t u v : State} {i : Instr} {is : List Instr} {r : InFlight} {res : Result} {w : Word}
  {d p : PlaneNo} {rest : List Event} {fs : List Snapshot} {ty : Tag} {ws : List Word} {S T : List PlaneNo}

/-! ### A command accepted, completed and polled (R70, R250, R286) -/

/-- What a command with result `res` leaves once the host has waited for it: its completion, and the poll of
`STATUS` that ends the wait. -/
def State.finish (s : State) (res : Result) : State :=
  { s.complete res with rdata := some (s.complete res).statusWord }

/-- Completion keeps no trace of the record, of `DONE`, or of what the port and the agenda held. -/
theorem State.complete_inFlight (s : State) (o : Option InFlight) (dn : Bool) (es : List Event) (v : Option Word)
    (res : Result) :
    State.complete { s with inflight := o, done := dn, agenda := es, rdata := v } res =
      { s.complete res with agenda := es, rdata := v } := by
  obtain ⟨plane, max⟩ := res
  cases plane <;> cases max <;> rfl

theorem issue_accepted (hi : s.issueError i = none) (hfs : s.snapshots i.sources = some fs) :
    issue i s = .next (s.accept (s.record i fs)) := by
  simp only [issue, hi, hfs]

theorem writeCmd_of_ok (he : s.err = false) (hf : s.inflight = none) (hd : decode w = .ok i) :
    writeCmd w s = issue i { s with done := false } := by
  have hb : ¬ s.busy = true := by simp [hf]
  rw [writeCmd, if_neg (by simp [he]), if_neg hb, hd]
  exact exec_idle hf

theorem step_wait (hb : s.build.legal = true) (ha : s.agenda = .wait :: rest) : step s = waitTurn rest s := by
  rw [step, if_pos hb]
  simp only [takeTurn, ha]

theorem step_wait_busy (hb : s.build.legal = true) (hf : s.inflight = some r) (ha : s.agenda = .wait :: rest) :
    step s = .next ((s.advance s.agenda).complete (resultOf r.instr s.build r)) := by
  have hbusy : s.busy = true := by simp [hf]
  rw [step_wait hb ha]
  unfold waitTurn
  rw [if_pos hbusy]
  exact engineTurn_inflight hf

theorem step_wait_idle (hb : s.build.legal = true) (hf : s.inflight = none) (ha : s.agenda = .wait :: rest) :
    step s = .next ((s.advance rest).answer s.statusWord) := by
  have hbusy : ¬ s.busy = true := by simp [hf]
  rw [step_wait hb ha]
  unfold waitTurn
  rw [if_neg hbusy]

/-- The three steps of a command the host issues and waits for: acceptance, completion, the poll. -/
theorem run_command {k : Nat} (hs : s.Ready) (hi : s.issueError i = none)
    (hfs : s.snapshots i.sources = some fs) :
    Host.Core.run core (k + 3) { s with agenda := .write 0x000 4 (encode i) :: .wait :: rest } =
      Host.Core.run core k { s.finish (resultOf i s.build (s.record i fs)) with agenda := rest } := by
  obtain ⟨hb, hf, he⟩ := hs
  let s' : State := { s with agenda := .wait :: rest, rdata := none, done := false }
  have hfs' : s'.snapshots i.sources = some fs := (State.snapshots_congr (s := s) (t := s') rfl rfl rfl _).trans hfs
  have haccept : step { s with agenda := .write 0x000 4 (encode i) :: .wait :: rest } =
      .next (s'.accept (s.record i fs)) :=
    (step_write_register (r := .cmd) hb rfl).trans
      ((writeCmd_of_ok (s := { s with agenda := .wait :: rest, rdata := none }) he hf (decode_encode i)).trans
        (issue_accepted hi hfs'))
  have hdone : step (s'.accept (s.record i fs)) =
      .next { s.complete (resultOf i s.build (s.record i fs)) with agenda := .wait :: rest, rdata := none } :=
    (step_wait_busy (s := s'.accept (s.record i fs)) hb rfl rfl).trans
      (congrArg _ (State.complete_inFlight s _ _ _ _ _))
  rw [run_of_next (M := core) haccept, run_of_next (M := core) hdone]
  refine run_of_next (M := core) (step_wait_idle ?_ rfl rfl)
  exact (congrArg Build.legal (State.complete_build s _)).trans hb

/-- `v` is what the commands `is` leave of `u`, each issued and waited for, whatever the host does next. -/
def Leaves (is : List Instr) (u v : State) : Prop :=
  ∀ (b : Build) (k : Nat) (rest : List Event),
    Host.Core.run core (3 * is.length + k)
        { u with agenda := assemble b (is.map fun i => .command i none) ++ rest } =
      Host.Core.run core k { v with agenda := rest }

theorem Leaves.cons (h : Leaves [i] u t) (hrest : Leaves is t v) : Leaves (i :: is) u v := by
  intro b k rest
  have hk : 3 * (i :: is).length + k = 3 * [i].length + (3 * is.length + k) := by
    rw [List.length_cons, List.length_singleton]
    omega
  rw [hk]
  exact (h b _ _).trans (hrest b k rest)

theorem Leaves.run (h : Leaves is u v) (b : Build) :
    Host.Core.run core (3 * is.length) { u with agenda := assemble b (is.map fun i => .command i none) } =
      .next { v with agenda := [] } := by
  simpa [Host.Core.run] using h b 0 []

/-! ### The words and the tag of one plane, through a completed command -/

theorem tag_finish : (s.finish (.toPlane d ty ws)).tag p = if p = d then ty else s.tag p :=
  State.tag_storePlane s d p ty ws

/-- A plane after a command has written plane `d`: the words written, or those of another plane unchanged (R62). -/
theorem planeWord_finish (hb : s.build.legal = true) (hlen : ws.length = s.build.size) {k : Nat}
    (hk : k < s.build.size) :
    (s.finish (.toPlane d ty ws)).planeWord p k = if p = d then ws[k]? else s.planeWord p k := by
  change (s.mem.writeWords (planeBase d) ws).readWord (planeAddr p k) = _
  split
  next heq =>
    have hk' : k < ws.length := by omega
    rw [heq, planeAddr, Memory.readWord_writeWords_self hk', List.getElem?_eq_getElem hk']
  next hne =>
    have hs := legal_size_le hb
    have hv : p.val ≠ d.val := fun h => hne (Fin.ext h)
    exact Memory.readWord_writeWords_other (by unfold planeAddr planeBase; omega)

theorem snapshots_of_snapshotOf {ps : List (PlaneNo × TagRule)} (h : List.Forall₂ (SnapshotOf s) ps fs) :
    s.snapshots ps = some fs := by
  induction h with
  | nil => rfl
  | @cons p f ps fs hf _ ih =>
    obtain ⟨htag, hlen, hwords⟩ := hf
    have hplane : s.planeWords p.1 = some f.words :=
      State.planeWords_eq_some_iff.mpr ⟨hlen, fun k hk => by
        rw [hwords k (by omega), List.getElem?_eq_getElem hk]⟩
    simp only [State.snapshots, hplane, ih, ← htag]

/-! ### States that agree but for some planes -/

/-- `u` is `s` but for the planes of `S`, `DONE`, and the data of the last read: `AgreeOutside` between the stages of a
sequence, where `DONE` may differ still. -/
structure SameOutside (S : List PlaneNo) (s u : State) : Prop where
  regs : ∃ mem tags done rdata, u = { s with mem := mem, tags := tags, done := done, rdata := rdata }
  tag : ∀ p ∉ S, u.tag p = s.tag p
  word : ∀ p ∉ S, ∀ k < s.build.size, u.planeWord p k = s.planeWord p k

theorem SameOutside.refl : SameOutside S s s :=
  ⟨⟨_, _, _, _, rfl⟩, fun _ _ => rfl, fun _ _ _ _ => rfl⟩

theorem SameOutside.build (h : SameOutside S s u) : u.build = s.build := by
  obtain ⟨_, _, _, _, rfl⟩ := h.regs
  rfl

theorem SameOutside.arg (h : SameOutside S s u) : u.arg = s.arg := by
  obtain ⟨_, _, _, _, rfl⟩ := h.regs
  rfl

theorem SameOutside.margin (h : SameOutside S s u) : u.margin = s.margin := by
  obtain ⟨_, _, _, _, rfl⟩ := h.regs
  rfl

theorem SameOutside.trans (h : SameOutside S s u) (h' : SameOutside T u v) (hT : T ⊆ S) : SameOutside S s v := by
  obtain ⟨⟨_, _, _, _, rfl⟩, htag, hword⟩ := h
  obtain ⟨⟨_, _, _, _, rfl⟩, htag', hword'⟩ := h'
  exact ⟨⟨_, _, _, _, rfl⟩, fun p hp => (htag' p fun hT' => hp (hT hT')).trans (htag p hp),
    fun p hp k hk => (hword' p (fun hT' => hp (hT hT')) k hk).trans (hword p hp k hk)⟩

theorem SameOutside.ready (h : SameOutside S s u) (hs : s.Ready) : u.Ready := by
  obtain ⟨_, _, _, _, rfl⟩ := h.regs
  exact hs

theorem SameOutside.agree (h : SameOutside S s u) (hdone : u.done = s.done) (es : List Event) :
    AgreeOutside S { s with agenda := es } { u with agenda := es } := by
  obtain ⟨⟨_, _, _, _, rfl⟩, htag, hword⟩ := h
  cases hdone
  exact ⟨rfl, fun p hp => ⟨htag p hp, hword p hp⟩⟩

/-- A command that writes plane `d` leaves every other plane, and every register, as it was. -/
theorem sameOutside_finish (hs : s.Ready) (d : PlaneNo) (ty : Tag) (hlen : ws.length = s.build.size) :
    SameOutside [d] s (s.finish (.toPlane d ty ws)) := by
  obtain ⟨hb, hf, -⟩ := hs
  refine ⟨?_, fun p hp => ?_, fun p hp k hk => ?_⟩
  · cases s
    cases hf
    exact ⟨_, _, _, _, rfl⟩
  · rw [tag_finish, if_neg (by simpa using hp)]
  · rw [planeWord_finish hb hlen hk, if_neg (by simpa using hp)]

/-- Two states that agree outside `S` still do after the same plane is written to both. -/
theorem SameOutside.finish_plane (h : SameOutside S s u) (hb : s.build.legal = true) (d : PlaneNo) (ty : Tag)
    (hlen : ws.length = s.build.size) :
    SameOutside S (s.finish (.toPlane d ty ws)) (u.finish (.toPlane d ty ws)) := by
  refine ⟨?_, fun p hp => ?_, fun p hp k hk => ?_⟩
  · obtain ⟨_, _, _, _, rfl⟩ := h.regs
    exact ⟨_, _, _, _, rfl⟩
  · rw [tag_finish, tag_finish, h.tag p hp]
  · have hbuild := h.build
    rw [planeWord_finish (hbuild ▸ hb) (hbuild ▸ hlen) (hbuild ▸ hk), planeWord_finish hb hlen hk,
      h.word p hp k hk]

theorem SameOutside.finish_max (h : SameOutside S s u) (m : Word) :
    SameOutside S (s.finish ⟨none, some m⟩) (u.finish ⟨none, some m⟩) := by
  obtain ⟨⟨_, _, _, _, rfl⟩, htag, hword⟩ := h
  exact ⟨⟨_, _, _, _, rfl⟩, htag, hword⟩

/-! ### Planes that feed a command (R98, R113) -/

/-- `f` is a copy of plane `p`, and its tag is one the rule beside `p` asks for. -/
def State.Feeds (s : State) (p : PlaneNo × TagRule) (f : Snapshot) : Prop :=
  SnapshotOf s p f ∧ p.2.ok f.tag = true

theorem SameOutside.feeds (h : SameOutside S s u) {p : PlaneNo × TagRule} (hp : p.1 ∉ S) (hf : s.Feeds p f) :
    u.Feeds p f := by
  obtain ⟨⟨htag, hlen, hwords⟩, hok⟩ := hf
  refine ⟨⟨htag.trans (h.tag _ hp).symm, hlen.trans (congrArg _ h.build.symm), fun k hk => ?_⟩, hok⟩
  rw [h.build] at hk
  rw [h.word _ hp k hk, hwords k hk]

/-- A plane just written feeds the next command with the words and the tag written. -/
theorem feeds_finish (hb : s.build.legal = true) (hlen : ws.length = s.build.size) :
    (s.finish (.toPlane d ty ws)).Feeds (d, .exactly ty) ⟨ty, ws⟩ := by
  refine ⟨⟨?_, hlen, fun k hk => ?_⟩, by simp [TagRule.ok]⟩
  · rw [tag_finish, if_pos rfl]
  · rw [planeWord_finish hb hlen hk, if_pos rfl]

theorem feeds_of_written (htag : s.tag p = ty) (hw : s.Written p) :
    ∃ ws, s.Feeds (p, .exactly ty) ⟨ty, ws⟩ := by
  refine ⟨(List.range s.build.size).map fun k => (s.planeWord p k).getD 0, ⟨htag.symm, by simp, fun k hk => ?_⟩,
    by simp [TagRule.ok]⟩
  obtain ⟨w, hw⟩ := Option.isSome_iff_exists.mp (hw k hk)
  simp [hk, hw]

/-- GLOBAL_MAX writes no plane. -/
theorem State.Feeds.finish_max {p : PlaneNo × TagRule} {f : Snapshot} (h : s.Feeds p f) (m : Word) :
    (s.finish ⟨none, some m⟩).Feeds p f := h

theorem sources_ok_of_feeds {ps : List (PlaneNo × TagRule)} (h : List.Forall₂ s.Feeds ps fs) :
    ps.all (fun p => p.2.ok (s.tag p.1)) = true := by
  induction h with
  | nil => rfl
  | cons hf _ ih =>
    obtain ⟨⟨htag, -⟩, hok⟩ := hf
    rw [List.all_cons, ih, ← htag, hok]
    rfl

/-- A command whose planes are in range and whose sources are fed is accepted, and leaves its result. -/
theorem leaves_command (hs : s.Ready) (hwf : i.wellFormed s.build = true) (harg : i.argOk s.arg = true)
    (hmax : i.needsMax = true → s.maxv = true) (hsrc : List.Forall₂ s.Feeds i.sources fs)
    (hres : resultOf i s.build (s.record i fs) = res) : Leaves [i] s (s.finish res) := by
  have hissue : s.issueError i = none :=
    issueError_eq_none_iff.mpr ⟨harg, (wellFormed_eq_planes _ _).symm.trans hwf, sources_ok_of_feeds hsrc, hmax⟩
  have hfs : s.snapshots i.sources = some fs := snapshots_of_snapshotOf (hsrc.imp fun _ _ h => h.1)
  intro b k rest
  rw [← hres, Nat.add_comm]
  exact run_command hs hissue hfs

end Sys2Proof.Machine
end

section
/-!
PROOFS. The family `46_pipelines.md`, third part: CANNY and HARRIS against the sequences of their stages (R231, R235).
-/

namespace Sys2Proof.Machine

variable {α : Type} {s u : State} {i : Instr} {res : Result} {d a : PlaneNo} {fs : List Snapshot} {ty : Tag}
  {ws : List Word} {S : List PlaneNo}

/-! ### A sequence of stages over scratch planes -/

/-- `u` is reached from the ready state `s` by commands that wrote planes of `S` alone; the planes of `S`, `d` and `a`
are planes of the build. -/
structure Staged (s : State) (d a : PlaneNo) (S : List PlaneNo) (u : State) : Prop where
  ready : s.Ready
  range : ∀ q ∈ d :: a :: S, q.val < s.build.nplanes
  same : SameOutside S s u

/-- The command after any stage is accepted if its sources are fed, and leaves its result. -/
theorem Staged.leaves (h : Staged s d a S u) (hsrc : List.Forall₂ u.Feeds i.sources fs)
    (hres : resultOf i s.build (u.record i fs) = res)
    (hi : i.planes ⊆ d :: a :: S := by simp [Instr.planes, Instr.dst?, Instr.sources])
    (harg : i.argOk u.arg = true := by rfl) (hmax : i.needsMax = true → u.maxv = true := by nofun) :
    Leaves [i] u (u.finish res) := by
  rw [← h.same.build] at hres
  refine leaves_command (h.same.ready h.ready) ?_ harg hmax hsrc hres
  rw [wellFormed_eq_planes, List.all_eq_true, h.same.build]
  exact fun q hq => decide_eq_true (h.range q (hi hq))

/-- One stage that writes scratch plane `q`: the plane feeds the stages after it, and the planes that fed stages
before still do. -/
theorem Staged.plane {q : PlaneNo} {out : Nat → Nat → α} {enc : α → Word} (h : Staged s d a S u)
    (hsrc : List.Forall₂ u.Feeds i.sources fs)
    (hres : resultOf i s.build (u.record i fs) = .toPlane q ty ((frameOf s.build out).map enc))
    (hq : q ∈ S := by simp) (hi : i.planes ⊆ d :: a :: S := by simp [Instr.planes, Instr.dst?, Instr.sources])
    (harg : i.argOk u.arg = true := by rfl) (hmax : i.needsMax = true → u.maxv = true := by nofun) :
    ∃ v, Leaves [i] u v ∧ Staged s d a S v ∧ v.Feeds (q, .exactly ty) ⟨ty, (frameOf s.build out).map enc⟩ ∧
      ∀ {p f}, p.1 ≠ q → u.Feeds p f → v.Feeds p f := by
  have hu := h.same.ready h.ready
  have hlen : ((frameOf s.build out).map enc).length = u.build.size := by simp [h.same.build]
  have hsame : SameOutside [q] u (u.finish (.toPlane q ty ((frameOf s.build out).map enc))) :=
    sameOutside_finish hu q ty hlen
  exact ⟨_, h.leaves hsrc hres hi harg hmax, ⟨h.ready, h.range, h.same.trans hsame (by simpa using hq)⟩,
    feeds_finish hu.1 hlen, fun hp => hsame.feeds (by simpa using hp)⟩

/-! ### CANNY (R231) -/

/-- The words CANNY writes in state `s`, from the words of its source (R230). -/
def cannyWords (s : State) (ws : List Word) : List Word :=
  (cannyFrame s.build s.arg.toInt s.margin.toNat fun x y => decodeRgb (frameAt s.build 0 ws x y)).map encodeRgb

theorem length_cannyWords (s : State) (ws : List Word) : (cannyWords s ws).length = s.build.size := by
  simp [cannyWords, cannyFrame]

theorem resultOf_canny :
    resultOf (.canny d a) s.build (s.record i [⟨ty, ws⟩]) = .toPlane d .rgb (cannyWords s ws) := rfl

/-- Settles O38: each stage finds the frame of the stage before it in a scratch plane, so the last one writes what
CANNY writes (`run7`), and every other write goes to a scratch plane (`hsame`). -/
theorem cannyIsItsSequence : Obligations.CannyIsItsSequence := by
  intro s d a p1 p2 p3 p4 p5 p6 hs htag hwritten hrange _ _ hd lines
  obtain ⟨ws, colour⟩ := feeds_of_written htag hwritten
  have h0 : Staged s d a [p1, p2, p3, p4, p5, p6] s := ⟨hs, hrange, .refl⟩
  obtain ⟨u1, run1, h1, gray, -⟩ := h0.plane (i := .togray p1 a) (.cons colour .nil) resultOf_togray
  obtain ⟨u2, run2, h2, blur, -⟩ := h1.plane (i := .gauss3 p2 p1) (.cons gray .nil) (resultOf_gauss3 rfl)
  obtain ⟨u3, run3, h3, gradient, -⟩ := h2.plane (i := .sobel p3 p2) (.cons blur .nil) (resultOf_sobel rfl)
  obtain ⟨u4, run4, h4, edges, -⟩ := h3.plane (i := .edgeNms p4 p3) (.cons gradient .nil) (resultOf_edgeNms rfl)
  obtain ⟨u5, run5, h5, binary, -⟩ := h4.plane (i := .threshold p5 p4) (.cons edges .nil)
    (resultOf_threshold h4.same.arg rfl)
  obtain ⟨u6, run6, h6, inner, -⟩ := h5.plane (i := .borderZero p6 p5) (.cons binary .nil)
    (resultOf_borderZero h5.same.margin rfl)
  have run7 : Leaves [.torgb d p6] u6 (u6.finish (.toPlane d .rgb (cannyWords s ws))) :=
    h6.leaves (.cons inner .nil) (resultOf_torgb rfl)
  have runs := run1.cons (run2.cons (run3.cons (run4.cons (run5.cons (run6.cons run7)))))
  have runCanny := h0.leaves (i := .canny d a) (.cons colour .nil) resultOf_canny
  have hsame := h6.same.finish_plane hs.1 d .rgb (length_cannyWords s ws)
  have hkeep := sameOutside_finish hs d .rgb (length_cannyWords s ws)
  refine ⟨_, _, runCanny.run s.build, runs.run s.build, hsame.agree rfl [], fun p hp => ?_⟩
  have hp' : p ∉ [d] := fun h => hd (List.mem_singleton.mp h ▸ hp)
  exact ⟨hkeep.tag p hp', hkeep.word p hp'⟩

/-! ### HARRIS (R235) -/

theorem ready_finish (hs : s.Ready) : (s.finish res).Ready := by
  obtain ⟨hb, _, he⟩ := hs
  exact ⟨(congrArg Build.legal (State.complete_build s res)).trans hb, rfl, (State.complete_err s res).trans he⟩

/-- GLOBAL_MAX in a sequence: from here on the sequence is compared with `s` under the new maximum. -/
theorem Staged.max (h : Staged s d a S u) (m : Word) :
    Staged (s.finish ⟨none, some m⟩) d a S (u.finish ⟨none, some m⟩) :=
  ⟨ready_finish h.ready, h.range, h.same.finish_max m⟩

/-- The scores HARRIS computes in state `s`, from the words of its source (R234). -/
def harrisScoresOf (s : State) (ws : List Word) : Frame Word :=
  harrisScores s.build fun x y => decodeRgb (frameAt s.build 0 ws x y)

/-- The maximum of the scores (R236). -/
def harrisMax (s : State) (ws : List Word) : Int := frameMax s.build (frameAt s.build 0 (harrisScoresOf s ws))

/-- The words HARRIS writes in state `s`. -/
def harrisWords (s : State) (ws : List Word) : List Word :=
  (harrisClasses s.build s.arg.toInt (harrisMax s ws) (harrisScoresOf s ws)).map encodeWPix

theorem length_harrisWords (s : State) (ws : List Word) : (harrisWords s ws).length = s.build.size := by
  simp [harrisWords, harrisClasses]

theorem resultOf_harris :
    resultOf (.harris d a) s.build (s.record i [⟨ty, ws⟩]) =
      ⟨some (d, .wpix, harrisWords s ws), some (BitVec.ofInt 32 (harrisMax s ws))⟩ := rfl

/-- Settles O39: as for CANNY, with the maximum of the scores set by GLOBAL_MAX before DECIDE reads it (`h9`), and each
scratch plane kept by the stages between its write and its last read (`keep3` to `keep7`). -/
theorem harrisIsItsSequence : Obligations.HarrisIsItsSequence := by
  intro s d a p1 p2 p3 p4 p5 p6 p7 p8 p9 hs htag hwritten hrange hnodup _ _ lines
  obtain ⟨n23, n34, n35, n36, n45, n46, n56, n57, n67⟩ : p2 ≠ p3 ∧ p3 ≠ p4 ∧ p3 ≠ p5 ∧ p3 ≠ p6 ∧ p4 ≠ p5 ∧ p4 ≠ p6 ∧
      p5 ≠ p6 ∧ p5 ≠ p7 ∧ p6 ≠ p7 := by grind
  obtain ⟨ws, colour⟩ := feeds_of_written htag hwritten
  have h0 : Staged s d a [p1, p2, p3, p4, p5, p6, p7, p8, p9] s := ⟨hs, hrange, .refl⟩
  obtain ⟨u1, run1, h1, gray, -⟩ := h0.plane (i := .togray p1 a) (.cons colour .nil) resultOf_togray
  obtain ⟨u2, run2, h2, blur, -⟩ := h1.plane (i := .gauss3 p2 p1) (.cons gray .nil) (resultOf_gauss3 rfl)
  obtain ⟨u3, run3, h3, gx, keep3⟩ := h2.plane (i := .sobelx p3 p2) (.cons blur .nil) (resultOf_sobelx rfl)
  obtain ⟨u4, run4, h4, gy, keep4⟩ := h3.plane (i := .sobely p4 p2) (.cons (keep3 n23 blur) .nil)
    (resultOf_sobely rfl)
  have gx4 := keep4 n34 gx
  obtain ⟨u5, run5, h5, ixx, keep5⟩ := h4.plane (i := .product p5 p3 p3) (.cons gx4 (.cons gx4 .nil))
    (resultOf_product rfl rfl)
  have gx5 := keep5 n35 gx4
  have gy5 := keep5 n45 gy
  obtain ⟨u6, run6, h6, iyy, keep6⟩ := h5.plane (i := .product p6 p4 p4) (.cons gy5 (.cons gy5 .nil))
    (resultOf_product rfl rfl)
  obtain ⟨u7, run7, h7, ixy, keep7⟩ := h6.plane (i := .product p7 p3 p4)
    (.cons (keep6 n36 gx5) (.cons (keep6 n46 gy5) .nil)) (resultOf_product rfl rfl)
  obtain ⟨u8, run8, h8, scores, -⟩ := h7.plane (i := .response p8 p5 p6 p7)
    (.cons (keep7 n57 (keep6 n56 ixx)) (.cons (keep7 n67 iyy) (.cons ixy .nil))) (resultOf_response rfl rfl rfl)
  have run9 : Leaves [.globalMax p8] u8 (u8.finish ⟨none, some (BitVec.ofInt 32 (harrisMax s ws))⟩) :=
    h8.leaves (.cons scores .nil) (resultOf_globalMax rfl)
  have h9 := h8.max (BitVec.ofInt 32 (harrisMax s ws))
  obtain ⟨u10, run10, h10, classes, -⟩ := h9.plane (i := .classify p9 p8) (.cons (scores.finish_max _) .nil)
    (resultOf_classify h9.same.arg (toInt_ofInt_frameMax _) rfl) (hmax := fun _ => rfl)
  have run11 : Leaves [.cornerNms d p9] u10 (u10.finish (.toPlane d .wpix (harrisWords s ws))) :=
    h10.leaves (.cons classes .nil) (resultOf_cornerNms rfl)
  have runs := run1.cons (run2.cons (run3.cons (run4.cons (run5.cons (run6.cons (run7.cons (run8.cons
    (run9.cons (run10.cons run11)))))))))
  have runHarris := h0.leaves (i := .harris d a) (.cons colour .nil) resultOf_harris
  have hsame := h10.same.finish_plane hs.1 d .wpix (length_harrisWords s ws)
  exact ⟨_, _, runHarris.run s.build, runs.run s.build, hsame.agree rfl []⟩

end Sys2Proof.Machine
end

section
/-!
PROOFS. The family `60_exceptions.md`: a decoded command is the word that was written; what a step can do to the error
record and to the command in flight; and the statements on errors and completion, read off from that.
-/

namespace Sys2Proof.Machine

variable {s t : State} {w v : Word} {i : Instr} {r : Reg} {rest : List Event}

/-! ### A decoded command is its word (R91, R92) -/

/-- A word with RSV = 0 is the word of its fields. -/
theorem encodeFields_of_rsv_zero (h : bits w 31 24 = 0) :
    encodeFields (bits w 7 0) (planeField w 8) (planeField w 12) (planeField w 16) (planeField w 20) = w := by
  apply BitVec.eq_of_toNat_eq
  simp only [encodeFields, planeField, Fin.val_ofNat, BitVec.toNat_ofNat]
  unfold bits at h ⊢
  have := w.isLt
  omega

/-- The bits above SRC1 are 0: so are SRC2, SRC3 and RSV. -/
theorem unused_fields_of_bits_eq_zero (h : bits w 31 16 = 0) :
    planeField w 16 = 0 ∧ planeField w 20 = 0 ∧ bits w 31 24 = 0 := by
  simp only [planeField_eq_zero_iff]
  unfold bits at h ⊢
  omega

/-- What the form CMD-DS accepts is the word of its two planes. -/
theorem encodeFields_of_formDS {mk : PlaneNo → PlaneNo → Instr} (h : formDS w mk = .ok i) :
    ∃ d a, i = mk d a ∧ encodeFields (bits w 7 0) d a 0 0 = w := by
  unfold formDS at h
  split at h
  case isFalse => cases h
  case isTrue h16 =>
    cases h
    obtain ⟨hsrc2, hsrc3, hrsv⟩ := unused_fields_of_bits_eq_zero h16
    have hword := encodeFields_of_rsv_zero hrsv
    rw [hsrc2, hsrc3] at hword
    exact ⟨_, _, rfl, hword⟩

/-- What the form CMD-DSS accepts is the word of its three planes. -/
theorem encodeFields_of_formDSS {mk : PlaneNo → PlaneNo → PlaneNo → Instr} (h : formDSS w mk = .ok i) :
    ∃ d a b, i = mk d a b ∧ encodeFields (bits w 7 0) d a b 0 = w := by
  unfold formDSS at h
  split at h
  case isFalse => cases h
  case isTrue h20 =>
    cases h
    have hsrc3 : planeField w 20 = 0 := planeField_eq_zero_iff.mpr (by unfold bits at h20 ⊢; omega)
    have hword := encodeFields_of_rsv_zero (w := w) (by unfold bits at h20 ⊢; omega)
    rw [hsrc3] at hword
    exact ⟨_, _, _, rfl, hword⟩

/-- What the form CMD-DSSS accepts is the word of its four planes. -/
theorem encodeFields_of_formDSSS {mk : PlaneNo → PlaneNo → PlaneNo → PlaneNo → Instr}
    (h : formDSSS w mk = .ok i) : ∃ d a b c, i = mk d a b c ∧ encodeFields (bits w 7 0) d a b c = w := by
  unfold formDSSS at h
  split at h
  case isFalse => cases h
  case isTrue h24 =>
    cases h
    exact ⟨_, _, _, _, rfl, encodeFields_of_rsv_zero h24⟩

/-- What the form CMD-S accepts is the word of its source plane. -/
theorem encodeFields_of_formS {mk : PlaneNo → Instr} (h : formS w mk = .ok i) :
    ∃ a, i = mk a ∧ encodeFields (bits w 7 0) 0 a 0 0 = w := by
  unfold formS at h
  split at h
  case isFalse => cases h
  case isTrue hzero =>
    cases h
    obtain ⟨h16, h8⟩ := hzero
    have hdst : planeField w 8 = 0 := planeField_eq_zero_iff.mpr h8
    obtain ⟨hsrc2, hsrc3, hrsv⟩ := unused_fields_of_bits_eq_zero h16
    have hword := encodeFields_of_rsv_zero hrsv
    rw [hdst, hsrc2, hsrc3] at hword
    exact ⟨_, rfl, hword⟩

/-- A word that decodes to a command is the word of that command: no bit of it is dropped. -/
theorem encode_of_decode (h : decode w = .ok i) : encode i = w := by
  unfold decode at h
  split at h
  case h_14 hop =>
    obtain ⟨d, a, b, rfl, hw⟩ := encodeFields_of_formDSS h
    rwa [hop] at hw
  case h_15 hop =>
    obtain ⟨d, a, b, c, rfl, hw⟩ := encodeFields_of_formDSSS h
    rwa [hop] at hw
  case h_16 hop =>
    obtain ⟨a, rfl, hw⟩ := encodeFields_of_formS h
    rwa [hop] at hw
  case h_21 => cases h
  all_goals
    rename_i hop
    obtain ⟨d, a, rfl, hw⟩ := encodeFields_of_formDS h
    rwa [hop] at hw

/-! ### The error record and the command in flight, through one step -/

/-- The error record: `ERR`, `ERRCODE` and `ERRINFO` (R253). -/
def State.errorRecord (s : State) : Bool × ErrCode × Word := (s.err, s.errcode, s.errinfo)

theorem State.errorRecord_eq_iff :
    t.errorRecord = s.errorRecord ↔ t.err = s.err ∧ t.errcode = s.errcode ∧ t.errinfo = s.errinfo := by
  simp [State.errorRecord]

/-- A write of a register other than `CMD` and `CTRL` leaves the error record and the command in flight. -/
theorem writeReg_keeps_records (hcmd : r ≠ .cmd) (hctrl : r ≠ .ctrl) (h : writeReg v s r = .next t) :
    t.errorRecord = s.errorRecord ∧ t.inflight = s.inflight := by
  cases r with
  | cmd => exact absurd rfl hcmd
  | ctrl => exact absurd rfl hctrl
  | ptype p =>
    simp only [writeReg] at h
    split at h
    · cases h
    · cases h
      simp [State.errorRecord]
  | _ =>
    cases h
    exact ⟨rfl, rfl⟩

/-- The engine's turn leaves the error record: a completion raises no error and clears none (R251, R255). -/
theorem engineTurn_keeps_errorRecord (h : engineTurn s = .next t) : t.errorRecord = s.errorRecord := by
  cases hf : s.inflight with
  | none =>
    rw [engineTurn_idle hf] at h
    cases h
    rfl
  | some r =>
    rw [engineTurn_inflight hf] at h
    cases h
    simp [State.errorRecord]

/-- What a step can do to the error record and to the command in flight: one of the two resets clears both; a word
written to `CMD` follows the acceptance rule; the engine has its turn; every other step leaves both as they are. -/
theorem step_record_cases (h : step s = .next t) :
    (∃ rest, s.agenda = .hardReset :: rest ∧ t = (s.advance rest).hardReset) ∨
    (∃ v rest, s.agenda = .write 0x00C 4 v :: rest ∧ bits v 0 0 = 1 ∧ t = (s.advance rest).softReset) ∨
    (∃ w rest, s.agenda = .write 0x000 4 w :: rest ∧ writeCmd w (s.advance rest) = .next t) ∨
    (∃ rest, engineTurn (s.advance rest) = .next t) ∨
    (t.errorRecord = s.errorRecord ∧ t.inflight = s.inflight) := by
  obtain ⟨-, hreset | ⟨rest, -, hturn⟩ | ⟨rest, v, -, rfl⟩ | ⟨rest, a, v, ha, hwrite⟩⟩ := step_cases h
  · exact .inl hreset
  · exact .inr (.inr (.inr (.inl ⟨rest, hturn⟩)))
  · exact .inr (.inr (.inr (.inr ⟨rfl, rfl⟩)))
  obtain rfl | ⟨p, k, -, -, rfl⟩ | ⟨r, htarget, hreg⟩ := hwrite
  · exact .inr (.inr (.inr (.inr ⟨rfl, rfl⟩)))
  · exact .inr (.inr (.inr (.inr ⟨rfl, rfl⟩)))
  have haddr := register_of_targetOf htarget
  by_cases hcmd : r = .cmd
  · subst hcmd
    obtain rfl : a = 0x000 := BitVec.eq_of_toNat_eq haddr
    exact .inr (.inr (.inl ⟨v, rest, ha, hreg⟩))
  by_cases hctrl : r = .ctrl
  · subst hctrl
    obtain rfl : a = 0x00C := BitVec.eq_of_toNat_eq haddr
    simp only [writeReg] at hreg
    split at hreg
    case isTrue hbit =>
      cases hreg
      exact .inr (.inl ⟨v, rest, ha, hbit, rfl⟩)
    case isFalse =>
      cases hreg
      exact .inr (.inr (.inr (.inr ⟨rfl, rfl⟩)))
  · exact .inr (.inr (.inr (.inr (writeReg_keeps_records (s := s.advance rest) hcmd hctrl hreg))))

/-! ### Errors (R250, R253, R257) -/

/-- A word written to `CMD` in the error state is dropped (R250). -/
theorem writeCmd_of_err (he : s.err = true) : writeCmd w s = .next s := if_pos he

/-- A word written to `CMD` on a busy engine with no error is an OVERRUN (R250). -/
theorem writeCmd_of_busy (he : s.err = false) (hb : s.busy = true) :
    writeCmd w s = .next (s.cmdError .overrun w) := by
  rw [writeCmd, if_neg (by simp [he]), if_pos hb]

/-- A word written to `CMD` that raises an error records an error code, OVERRUN exactly on a busy engine, and the word
itself; it clears `DONE` on an idle engine and changes nothing else. -/
theorem writeCmd_raises (h : writeCmd w s = .next t) (he : s.err = false) (ht : t.err = true) :
    ∃ e, t = { s with done := s.done && s.busy }.cmdError e w ∧ (e = .overrun ↔ s.busy = true) ∧ e ≠ .none := by
  obtain ⟨he', -⟩ | ⟨-, hb, hover⟩ | ⟨-, hf, e, v, hnone, hover, hv, herr⟩ | ⟨-, -, i, fs, -, -, -, hacc⟩ |
    ⟨-, -, i, -, -, -, hfault⟩ := writeCmd_cases w s
  · simp [he] at he'
  · obtain rfl : t = s.cmdError .overrun w := by simpa [h] using hover
    exact ⟨.overrun, by rw [hb, Bool.and_true], iff_of_true rfl hb, by decide⟩
  · have hword : v = w := by
      obtain rfl | ⟨i, hi, rfl⟩ := hv
      · rfl
      · exact encode_of_decode hi
    have hb : s.busy = false := by simp [hf]
    refine ⟨e, ?_, iff_of_false hover (by simp [hf]), hnone⟩
    rw [hb, Bool.and_false, ← hword]
    simpa [h] using herr
  · obtain rfl : t = _ := by simpa [h] using hacc
    simp [he] at ht
  · simp [h] at hfault

/-- Settles O11: of the five kinds of step only a word written to `CMD` sets `ERR`, and it does so as
`writeCmd_raises` says. -/
theorem errorEntryChangesOnlyTheErrorRecord : Obligations.ErrorEntryChangesOnlyTheErrorRecord := by
  intro s t h he ht
  have habsurd (hrec : t.errorRecord = s.errorRecord) : False := by
    simp [State.errorRecord, he, ht] at hrec
  obtain ⟨rest, -, rfl⟩ | ⟨v, rest, -, -, rfl⟩ | ⟨w, rest, ha, hw⟩ | ⟨rest, hturn⟩ | ⟨hrec, -⟩ := step_record_cases h
  · simp at ht
  · simp at ht
  · obtain ⟨e, rfl, hover, hnone⟩ := writeCmd_raises hw he ht
    exact ⟨w, rest, ha, rfl, hover, hnone⟩
  · exact (habsurd (engineTurn_keeps_errorRecord (s := s.advance rest) hturn)).elim
  · exact (habsurd hrec).elim

/-- Settles O12: in the error state a word written to `CMD` is dropped, so only the two resets among the five kinds of
step touch the error record. -/
theorem errorsDoNotNest : Obligations.ErrorsDoNotNest := by
  intro s t h he
  have hkeep (hrec : t.errorRecord = s.errorRecord) :
      t.err = true ∧ t.errcode = s.errcode ∧ t.errinfo = s.errinfo :=
    he ▸ State.errorRecord_eq_iff.mp hrec
  obtain ⟨rest, ha, -⟩ | ⟨v, rest, ha, hbit, -⟩ | ⟨w, rest, -, hw⟩ | ⟨rest, hturn⟩ | ⟨hrec, -⟩ := step_record_cases h
  · exact .inr (.inl ⟨rest, ha⟩)
  · exact .inr (.inr ⟨v, rest, ha, hbit⟩)
  · rw [writeCmd_of_err (s := s.advance rest) he] at hw
    cases hw
    exact .inl (hkeep rfl)
  · exact .inl (hkeep (engineTurn_keeps_errorRecord (s := s.advance rest) hturn))
  · exact .inl (hkeep hrec)

/-! ### The command in flight (R251, R255) -/

/-- A word written to `CMD` while a command is in flight leaves the command in flight (R250). -/
theorem writeCmd_keeps_inflight {r : InFlight} (hf : s.inflight = some r) (h : writeCmd w s = .next t) :
    t.inflight = some r := by
  cases he : s.err with
  | true =>
    rw [writeCmd_of_err he] at h
    cases h
    exact hf
  | false =>
    rw [writeCmd_of_busy he (by simp [hf])] at h
    cases h
    exact hf

/-- Settles O14: the engine's turn is the completion of the record, a total function of it; a word written to `CMD`
leaves the record, and so does every other step that is no reset. -/
theorem acceptedCommandsCannotFail : Obligations.AcceptedCommandsCannotFail := by
  refine ⟨fun s r hf => ⟨_, engineTurn_inflight hf, rfl, rfl⟩, fun s t r hf h => ?_⟩
  obtain ⟨rest, ha, -⟩ | ⟨v, rest, ha, hbit, -⟩ | ⟨w, rest, -, hw⟩ | ⟨rest, hturn⟩ | ⟨-, hinfl⟩ := step_record_cases h
  · exact .inr (.inr (.inl ⟨rest, ha⟩))
  · exact .inr (.inr (.inr ⟨v, rest, ha, hbit⟩))
  · exact .inl (writeCmd_keeps_inflight (s := s.advance rest) hf hw)
  · rw [engineTurn_inflight (s := s.advance rest) hf] at hturn
    cases hturn
    exact .inr (.inl ⟨rfl, rfl, rest, exec_inflight hf rfl⟩)
  · exact .inl (hinfl.trans hf)

/-- Completion neither reads nor writes the error record and the agenda. -/
theorem State.complete_error (s : State) (e : ErrCode) (w : Word) (es : List Event) (res : Result) :
    State.complete { s with err := true, errcode := e, errinfo := w, agenda := es } res =
      { s.complete res with err := true, errcode := e, errinfo := w, agenda := es } := by
  obtain ⟨plane, max⟩ := res
  cases plane <;> cases max <;> rfl

/-- An OVERRUN as a step: the word's write is the next event of the agenda (R250). -/
theorem step_overrun (hb : s.build.legal = true) (he : s.err = false) (hbusy : s.busy = true)
    (ha : s.agenda = .write 0x000 4 w :: rest) :
    step s = .next ((s.advance rest).cmdError .overrun w) := by
  have hstep : step s = hostWrite 0x000 4 w (s.advance rest) := by
    rw [step, if_pos hb]
    simp only [takeTurn, ha]
  rw [hstep, hostWrite_register (r := .cmd) rfl]
  exact writeCmd_of_busy (s := s.advance rest) he hbusy

/-- The engine's turn on the agenda completes the command in flight, as a step (R286). -/
theorem step_engine {r : InFlight} (hb : s.build.legal = true) (hf : s.inflight = some r)
    (ha : s.agenda = .engine :: rest) :
    step s = .next ((s.advance rest).complete (resultOf r.instr s.build r)) := by
  rw [step, if_pos hb]
  simp only [takeTurn, ha]
  exact engineTurn_inflight hf

/-- `STATUS` of an idle block with `DONE` set and an OVERRUN recorded (R255). -/
theorem statusWord_of_done_overrun (hf : s.inflight = none) (hd : s.done = true) (he : s.err = true)
    (hcode : s.errcode = .overrun) : s.statusWord = BitVec.ofNat 32 (0x106 + 8 * flag s.maxv) := by
  have hsum : flag s.busy + 2 * flag s.done + 4 * flag s.err + 8 * flag s.maxv + 2 ^ 8 * s.errcode.code =
      0x106 + 8 * flag s.maxv := by
    rw [State.busy_eq, hf, hd, he, hcode]
    cases s.maxv <;> rfl
  exact congrArg (BitVec.ofNat 32) hsum

/-- Settles O13: the OVERRUN enters the error record alone, completion commutes with that entry
(`State.complete_error`), and the error state drops the further word. -/
theorem overrunDoesNotDisturb : Obligations.OverrunDoesNotDisturb := by
  intro s t r w hb he hf hexec rest ha u
  rw [exec_inflight (s := { s with rdata := none }) hf rfl] at hexec
  cases hexec
  have hover := step_overrun hb he (by simp [hf]) ha
  have hdone : step ((s.advance (.engine :: rest)).cmdError .overrun w) = .next u :=
    (step_engine (s := (s.advance (.engine :: rest)).cmdError .overrun w) hb hf rfl).trans
      (congrArg _ (State.complete_error { s with rdata := none } .overrun w rest _))
  refine ⟨?_, ?_, fun v rest' => ?_⟩
  · rw [run_of_next (M := core) hover, run_of_next (M := core) hdone]
    rfl
  · exact statusWord_of_done_overrun (s := u) rfl rfl rfl rfl
  · have hu : u.build.legal = true := (congrArg Build.legal (State.complete_build _ _)).trans hb
    exact (step_write_register (r := .cmd) hu rfl).trans (writeCmd_of_err rfl)

end Sys2Proof.Machine
end

section
/-!
PROOFS. The family `70_reset_and_hazards.md`: what a hard reset leaves of a state, and a host's read of a word it left
unwritten.
-/

namespace Sys2Proof.Machine

variable {s : State} {p : PlaneNo} {i : Nat} {rest : List Event}

/-! ### A host's read of an unwritten plane word, as a step (R30, R62) -/

/-- The address of a backed plane word fits in the host's 32 bits. -/
theorem toNat_address_planeWord {b : Build} (hb : b.legal = true) (hi : i < b.size) :
    (BitVec.ofNat 32 (planeAddr p i)).toNat = planeAddr p i := by
  have := legal_size_le hb
  have := p.isLt
  rw [BitVec.toNat_ofNat]
  exact Nat.mod_eq_of_lt (by unfold planeAddr planeBase; omega)

/-- The port takes a word access at the address of a plane word. -/
theorem accessRefusal_planeAddr {a : Word} (h : a.toNat = planeAddr p i) : accessRefusal a 4 = none := by
  unfold planeAddr planeBase at h
  exact accessRefusal_eq_none_iff.mpr ⟨rfl, by unfold bits; omega⟩

theorem step_read_unwritten (hb : s.build.legal = true) (hf : s.inflight = none) (hp : p.val < s.build.nplanes)
    (hi : i < s.build.size) (hw : s.planeWord p i = none) :
    step { s with agenda := .read (BitVec.ofNat 32 (planeAddr p i)) 4 :: rest } = .fault .unwrittenRead := by
  have haddr := toNat_address_planeWord (p := p) hb hi
  rw [step_read hb]
  exact hostRead_unwritten hf (accessRefusal_planeAddr haddr) (targetOf_planeWord hb hp hi haddr) hw

/-! ### Hard reset (R280) -/

theorem step_hardReset (hb : s.build.legal = true) (ha : s.agenda = .hardReset :: rest) :
    step s = .next (s.advance rest).hardReset := by
  rw [step, if_pos hb]
  simp only [takeTurn, ha]

@[simp] theorem State.hardReset_statusWord (s : State) : s.hardReset.statusWord = 0 := rfl

theorem State.hardReset_kcoef_get (s : State) (i : Fin 25) : s.hardReset.kcoef[i] = 0 := by simp

@[simp] theorem State.hardReset_tag (s : State) (p : PlaneNo) : s.hardReset.tag p = .none := by
  simp [State.tag]

/-- Hard reset leaves an empty memory, so no plane word has a value (R40). -/
@[simp] theorem State.hardReset_planeWord (s : State) (p : PlaneNo) (i : Nat) :
    s.hardReset.planeWord p i = none := rfl

/-- Settles O42: each field by its own lemma, and the fault as the read of a word of the emptied memory. -/
theorem hardResetState : Obligations.HardResetState := fun s rest hb ha =>
  ⟨(s.advance rest).hardReset, step_hardReset hb ha, rfl, State.hardReset_statusWord _, rfl, rfl, rfl, rfl, rfl,
    State.hardReset_kcoef_get _, State.hardReset_tag _, State.hardReset_planeWord _, rfl, rfl,
    fun p i hp hi =>
      step_read_unwritten (s := (s.advance rest).hardReset) hb rfl hp hi (State.hardReset_planeWord _ p i)⟩

end Sys2Proof.Machine
end

section
/-!
PROOFS. The family of the encoding (30_encoding.md): command words and the opcode table (R91 to R95), and the words of
the element types (R99 to R106).
-/

namespace Sys2Proof.Machine

variable {w : Word} {i : Instr} {op : Nat}

/-! ### Commands and their words (R91, R92) -/

/-- Settles O2: the fields of a command's word select the command's arm of the decoder. -/
theorem decodeInvertsEncode : Obligations.DecodeInvertsEncode := decode_encode

/-- Settles O3: each form of the decoder accepts only the word of its fields. -/
theorem encodeInvertsDecode : Obligations.EncodeInvertsDecode := fun _ _ => encode_of_decode

/-! ### The opcode table (R94) -/

/-- A mask of `m` ones from bit `n` up and of ones below bit `k` keeps two parts of a number. -/
theorem and_two_part_mask {k n : Nat} (hk : k ≤ n) (x m : Nat) :
    x &&& (2 ^ n * (2 ^ m - 1) + (2 ^ k - 1)) = 2 ^ n * (x / 2 ^ n % 2 ^ m) + x % 2 ^ k := by
  have hpow : 2 ^ k ≤ 2 ^ n := Nat.pow_le_pow_right Nat.two_pos hk
  have hmask : 2 ^ k - 1 < 2 ^ n := by have := Nat.two_pow_pos k; omega
  have hlow : x % 2 ^ k < 2 ^ n := (Nat.mod_lt x (Nat.two_pow_pos k)).trans_le hpow
  refine Nat.eq_of_testBit_eq fun j => ?_
  rw [Nat.testBit_and, Nat.testBit_two_pow_mul_add _ hmask, Nat.testBit_two_pow_mul_add _ hlow]
  split
  next hj => simp [Bool.and_comm]
  next hj => simp [Bool.and_comm, Nat.testBit_div_two_pow, Nat.sub_add_cancel (Nat.le_of_not_lt hj)]

/-- A word matches a pattern under such a mask if its upper part is 0 and its lower part is the pattern. -/
theorem and_mask_eq_iff {k n m : Nat} {mask : Word} (hk : k ≤ n) (hn : n ≤ 32)
    (hmask : mask.toNat = 2 ^ n * (2 ^ m - 1) + (2 ^ k - 1)) (hop : op < 2 ^ k) :
    w &&& mask = BitVec.ofNat 32 op ↔ w.toNat / 2 ^ n % 2 ^ m = 0 ∧ w.toNat % 2 ^ k = op := by
  have hkn : 2 ^ k ≤ 2 ^ n := Nat.pow_le_pow_right Nat.two_pos hk
  have hlow := Nat.mod_lt w.toNat (Nat.two_pow_pos k)
  have hop32 : op < 2 ^ 32 := hop.trans_le (Nat.pow_le_pow_right Nat.two_pos (hk.trans hn))
  rw [← BitVec.toNat_inj, BitVec.toNat_and, hmask, and_two_part_mask hk, BitVec.toNat_ofNat, Nat.mod_eq_of_lt hop32]
  constructor
  · intro h
    have hzero : w.toNat / 2 ^ n % 2 ^ m = 0 := by
      by_contra hne
      have := Nat.le_mul_of_pos_right (2 ^ n) (Nat.pos_of_ne_zero hne)
      omega
    rw [hzero] at h
    exact ⟨hzero, by omega⟩
  · rintro ⟨hzero, hpat⟩
    rw [hzero, hpat, Nat.mul_zero, Nat.zero_add]

theorem and_maskDS_eq_iff (hop : op < 256) :
    w &&& 0xFFFF00FF = BitVec.ofNat 32 op ↔ bits w 7 0 = op ∧ bits w 31 16 = 0 := by
  rw [and_mask_eq_iff (k := 8) (n := 16) (m := 16) (by decide) (by decide) (by decide) hop]
  unfold bits
  omega

theorem and_maskDSS_eq_iff (hop : op < 256) :
    w &&& 0xFFF000FF = BitVec.ofNat 32 op ↔ bits w 7 0 = op ∧ bits w 31 20 = 0 := by
  rw [and_mask_eq_iff (k := 8) (n := 20) (m := 12) (by decide) (by decide) (by decide) hop]
  unfold bits
  omega

theorem and_maskDSSS_eq_iff (hop : op < 256) :
    w &&& 0xFF0000FF = BitVec.ofNat 32 op ↔ bits w 7 0 = op ∧ bits w 31 24 = 0 := by
  rw [and_mask_eq_iff (k := 8) (n := 24) (m := 8) (by decide) (by decide) (by decide) hop]
  unfold bits
  omega

theorem and_maskS_eq_iff (hop : op < 256) :
    w &&& 0xFFFF0FFF = BitVec.ofNat 32 op ↔ bits w 7 0 = op ∧ bits w 31 16 = 0 ∧ bits w 11 8 = 0 := by
  rw [and_mask_eq_iff (k := 12) (n := 16) (m := 16) (by decide) (by decide) (by decide) (by omega)]
  unfold bits
  omega

/-- A word that decodes matches the row of its command: the arm of the decoder has the row's opcode, and the form of
the arm the row's mask. -/
theorem exists_row_of_decode (h : decode w = .ok i) :
    ∃ row ∈ opcodeTable, row.mnemonic = i.mnemonic ∧ w &&& row.mask = row.pattern := by
  unfold decode at h
  split at h
  case h_14 hop =>
    rw [formDSS] at h
    split at h <;> cases h
    next h20 => exact ⟨⟨_, _, 0xFFF000FF⟩, by decide, rfl, (and_maskDSS_eq_iff (by decide)).mpr ⟨hop, h20⟩⟩
  case h_15 hop =>
    rw [formDSSS] at h
    split at h <;> cases h
    next h24 => exact ⟨⟨_, _, 0xFF0000FF⟩, by decide, rfl, (and_maskDSSS_eq_iff (by decide)).mpr ⟨hop, h24⟩⟩
  case h_16 hop =>
    rw [formS] at h
    split at h <;> cases h
    next hzero => exact ⟨⟨_, _, 0xFFFF0FFF⟩, by decide, rfl, (and_maskS_eq_iff (by decide)).mpr ⟨hop, hzero⟩⟩
  case h_21 => cases h
  all_goals
    rename_i hop
    rw [formDS] at h
    split at h <;> cases h
    next h16 => exact ⟨⟨_, _, 0xFFFF00FF⟩, by decide, rfl, (and_maskDS_eq_iff (by decide)).mpr ⟨hop, h16⟩⟩

/-- What a row of format CMD-DS matches decodes, by the arm of the row's opcode, to a command with its mnemonic. -/
theorem decode_of_maskDS {name : String} (mk : PlaneNo → PlaneNo → Instr)
    (h : w &&& 0xFFFF00FF = BitVec.ofNat 32 op) (hop : op < 256 := by decide)
    (hname : ∀ d a, (mk d a).mnemonic = name := by exact fun _ _ => rfl)
    (harm : bits w 7 0 = op → decode w = formDS w mk := by intro h; simp only [decode, h]) :
    ∃ i, decode w = .ok i ∧ i.mnemonic = name := by
  obtain ⟨hbits, h16⟩ := (and_maskDS_eq_iff hop).mp h
  exact ⟨_, by rw [harm hbits, formDS, if_pos h16], hname _ _⟩

theorem decode_of_product_row (h : w &&& 0xFFF000FF = 0x40) :
    ∃ i, decode w = .ok i ∧ i.mnemonic = "PRODUCT" := by
  obtain ⟨hbits, h20⟩ := (and_maskDSS_eq_iff (op := 0x40) (by decide)).mp h
  exact ⟨.product (planeField w 8) (planeField w 12) (planeField w 16),
    by simp only [decode, hbits, formDSS, h20, if_true], rfl⟩

theorem decode_of_response_row (h : w &&& 0xFF0000FF = 0x41) :
    ∃ i, decode w = .ok i ∧ i.mnemonic = "RESPONSE" := by
  obtain ⟨hbits, h24⟩ := (and_maskDSSS_eq_iff (op := 0x41) (by decide)).mp h
  exact ⟨.response (planeField w 8) (planeField w 12) (planeField w 16) (planeField w 20),
    by simp only [decode, hbits, formDSSS, h24, if_true], rfl⟩

theorem decode_of_globalMax_row (h : w &&& 0xFFFF0FFF = 0x42) :
    ∃ i, decode w = .ok i ∧ i.mnemonic = "GLOBAL_MAX" := by
  obtain ⟨hbits, hzero⟩ := (and_maskS_eq_iff (op := 0x42) (by decide)).mp h
  exact ⟨.globalMax (planeField w 12), by simp only [decode, hbits, formS, if_pos hzero], rfl⟩

/-- Settles O4: a row fixes the opcode, which selects the arm, and the zero bits the arm's form asks for. -/
theorem opcodeTableDecidesCommands : Obligations.OpcodeTableDecidesCommands := by
  refine fun w => ⟨fun i => exists_row_of_decode, ?_⟩
  simp only [opcodeTable, List.cons_append, List.nil_append, List.forall_mem_cons]
  exact ⟨decode_of_maskDS .conv3, decode_of_maskDS .conv5, decode_of_maskDS .togray, decode_of_maskDS .torgb,
    decode_of_maskDS .copy, decode_of_maskDS .gauss3, decode_of_maskDS .gauss5, decode_of_maskDS .sobel,
    decode_of_maskDS .sobelx, decode_of_maskDS .sobely, decode_of_maskDS .edgeNms, decode_of_maskDS .threshold,
    decode_of_maskDS .borderZero, decode_of_product_row, decode_of_response_row, decode_of_globalMax_row,
    decode_of_maskDS .classify, decode_of_maskDS .cornerNms, decode_of_maskDS .canny, decode_of_maskDS .harris,
    fun _ h => absurd h List.not_mem_nil⟩

/-! ### The words of the element types (R99 to R106) -/

theorem toNat_append_eq_add {m n : Nat} (x : BitVec m) (y : BitVec n) :
    (x ++ y).toNat = 2 ^ n * x.toNat + y.toNat := by
  rw [BitVec.toNat_append, Nat.shiftLeft_eq, Nat.mul_comm, Nat.two_pow_add_eq_or_of_lt y.isLt]

theorem toNat_encodeRgb (e : Rgb) : (encodeRgb e).toNat = e.r.toNat + 2 ^ 8 * e.g.toNat + 2 ^ 16 * e.b.toNat := by
  simp only [encodeRgb, toNat_append_eq_add, BitVec.toNat_ofNat]
  omega

theorem toNat_encodeDir (e : DirPixel) : (encodeDir e).toNat = e.mag.toNat + 2 ^ 8 * e.dir.code.toNat := by
  simp only [encodeDir, toNat_append_eq_add, BitVec.toNat_ofNat]
  omega

theorem toNat_encodeWPix (e : WPixel) : (encodeWPix e).toNat = e.value.toNat + 2 ^ 16 * e.kind.code.toNat := by
  simp only [encodeWPix, toNat_append_eq_add, BitVec.toNat_ofNat]
  omega

@[simp] theorem toNat_encodeU8 (v : Byte) : (encodeU8 v).toNat = v.toNat :=
  BitVec.toNat_setWidth_of_le (by decide)

@[simp] theorem toNat_encodeU16 (v : BitVec 16) : (encodeU16 v).toNat = v.toNat :=
  BitVec.toNat_setWidth_of_le (by decide)

@[simp] theorem toInt_encodeS16 (v : BitVec 16) : (encodeS16 v).toInt = v.toInt :=
  BitVec.toInt_signExtend_of_le (by decide)

theorem decodeRgb_encodeRgb (e : Rgb) : decodeRgb (encodeRgb e) = e := by
  have hr : (encodeRgb e).extractLsb' 0 8 = e.r := BitVec.extractLsb'_append_eq_right
  have hg : (encodeRgb e).extractLsb' 8 8 = e.g :=
    (BitVec.extractLsb'_append_eq_of_le (Nat.le_refl 8)).trans BitVec.extractLsb'_append_eq_right
  have hb : (encodeRgb e).extractLsb' 16 8 = e.b :=
    (BitVec.extractLsb'_append_eq_of_le (by decide)).trans
      ((BitVec.extractLsb'_append_eq_of_le (Nat.le_refl 8)).trans BitVec.extractLsb'_append_eq_right)
  rw [decodeRgb, hr, hg, hb]

/-- Settles O6: each type by its round trip, and the value of its word as the sum of its fields. -/
theorem elementCodecsRoundTrip : Obligations.ElementCodecsRoundTrip := by
  refine ⟨fun e => ⟨decodeRgb_encodeRgb e, ?_⟩, fun v => ⟨decodeU8_encodeU8 v, toNat_encodeU8 v⟩,
    fun e => ⟨decodeDir_encodeDir e, ?_⟩, fun v => ⟨decodeS16_encodeS16 v, toInt_encodeS16 v⟩,
    fun v => ⟨decodeU16_encodeU16 v, toNat_encodeU16 v⟩, fun _ => rfl, fun e => ⟨decodeWPix_encodeWPix e, ?_⟩⟩
  · have := e.r.isLt; have := e.g.isLt; have := e.b.isLt
    rw [bits, toNat_encodeRgb]
    omega
  · have := e.mag.isLt; have := e.dir.code.isLt
    rw [bits, toNat_encodeDir]
    omega
  · have := e.value.isLt; have := e.kind.code.isLt
    rw [bits, toNat_encodeWPix]
    omega

end Sys2Proof.Machine
end

section
/-!
PROOFS. The invariant of the machine: what each operation on the plane memory, the status registers, the tags and the
record in flight does to it, and that every step keeps it.
-/

namespace Sys2Proof.Machine

variable {s t : State} {p d : PlaneNo} {i : Nat} {w v : Word} {ws : List Word} {r : InFlight}

/-! ### The plane memory (R30, R60, R62) -/

theorem State.MemInv.congr (h : s.MemInv) (hm : t.mem = s.mem) (hb : t.build = s.build) : t.MemInv := by
  obtain ⟨hwf, hbacked, hwhole⟩ := h
  simp only [State.planeWord] at hwhole
  constructor <;> simpa only [State.planeWord, hm, hb]

/-- Two different words of the planes of a legal build do not overlap (R62). -/
theorem planeAddr_apart {b : Build} (hb : b.legal = true) {q : PlaneNo} {j : Nat} (hi : i < b.size) (hj : j < b.size)
    (h : p = q → i ≠ j) : planeAddr p i + 4 ≤ planeAddr q j ∨ planeAddr q j + 4 ≤ planeAddr p i := by
  by_cases hpq : p = q
  · have := h hpq
    unfold planeAddr
    rw [hpq]
    omega
  · exact planeAddr_disjoint hb hpq hi hj

theorem Memory.mem_writeWord {m : Memory} {a : Nat} {c : Host.Cell} (h : c ∈ m.writeWord a w) :
    (∃ k < 4, c.1 = a + k) ∨ c ∈ m := by
  rcases Memory.mem_write h with rfl | h
  · exact .inl ⟨3, by decide, rfl⟩
  rcases Memory.mem_write h with rfl | h
  · exact .inl ⟨2, by decide, rfl⟩
  rcases Memory.mem_write h with rfl | h
  · exact .inl ⟨1, by decide, rfl⟩
  rcases Memory.mem_write h with rfl | h
  · exact .inl ⟨0, by decide, rfl⟩
  exact .inr h

theorem Memory.mem_writeWords {m : Memory} {a : Nat} {c : Host.Cell} (h : c ∈ m.writeWords a ws) :
    a ≤ c.1 ∧ c.1 < a + 4 * ws.length ∨ c ∈ m := by
  simp only [Memory.writeWords, List.mem_append, List.mem_filter] at h
  rcases h with (⟨h, -⟩ | h) | ⟨h, -⟩
  · exact .inr h
  · exact .inl (wordCells_addr h)
  · exact .inr h

theorem State.MemInv.writeWord (h : s.MemInv) (hb : s.build.legal = true) (hp : p.val < s.build.nplanes)
    (hi : i < s.build.size) : State.MemInv { s with mem := s.mem.writeWord (planeAddr p i) v } where
  wf := Memory.wf_writeWord h.wf
  backed c hc := by
    rcases Memory.mem_writeWord hc with ⟨k, hk, hck⟩ | hc
    · exact ⟨p, i, k, hp, hi, hk, hck⟩
    · exact h.backed c hc
  whole q j hj hnone k hk := by
    by_cases hsame : p = q ∧ i = j
    · obtain ⟨rfl, rfl⟩ := hsame
      simp [State.planeWord, Memory.readWord_writeWord_self h.wf] at hnone
    · have hapart := planeAddr_apart hb hi hj fun hpq hij => hsame ⟨hpq, hij⟩
      rw [State.planeWord, Memory.readWord_writeWord_other h.wf (by omega)] at hnone
      rw [Memory.read_writeWord h.wf, if_neg (by omega)]
      exact h.whole q j hj hnone k hk

/-- A whole plane written at once (R114). -/
theorem State.MemInv.writeWords (h : s.MemInv) (hb : s.build.legal = true) (hd : d.val < s.build.nplanes)
    (hlen : ws.length = s.build.size) : State.MemInv { s with mem := s.mem.writeWords (planeBase d) ws } where
  wf := Memory.wf_writeWords h.wf
  backed c hc := by
    rcases Memory.mem_writeWords hc with ⟨hlow, hhigh⟩ | hc
    · refine ⟨d, (c.1 - planeBase d) / 4, (c.1 - planeBase d) % 4, hd, by simp only; omega, by omega, ?_⟩
      unfold planeAddr
      omega
    · exact h.backed c hc
  whole q j hj hnone k hk := by
    have hs := legal_size_le hb
    by_cases hq : q = d
    · simp only at hj
      rw [State.planeWord, hq, planeAddr, Memory.readWord_writeWords_self (by omega)] at hnone
      cases hnone
    · have hv : q.val ≠ d.val := fun e => hq (Fin.ext e)
      have hout : planeAddr q j + 4 ≤ planeBase d ∨ planeBase d + 4 * ws.length ≤ planeAddr q j := by
        simp only at hj
        unfold planeAddr planeBase
        omega
      rw [State.planeWord, Memory.readWord_writeWords_other hout] at hnone
      rw [Memory.read_writeWords_other (by omega)]
      exact h.whole q j hj hnone k hk

/-- A whole plane made unwritten (R281). -/
theorem State.MemInv.erasePlane (h : s.MemInv) (hb : s.build.legal = true) (d : PlaneNo) : (s.erasePlane d).MemInv where
  wf := Memory.wf_erase h.wf
  backed c hc := h.backed c (List.mem_filter.mp hc).1
  whole q j hj hnone k hk := by
    rw [State.erasePlane_mem, Memory.read_erase]
    split
    next => rfl
    next hout =>
      have hq : q ≠ d := by
        rintro rfl
        rw [State.erasePlane_build] at hj
        exact hout (by unfold planeAddr; omega)
      rw [State.planeWord_erasePlane_of_ne hb hq hj] at hnone
      exact h.whole q j hj hnone k hk

theorem State.MemInv.abort (h : s.MemInv) (hb : s.build.legal = true) : s.abort.MemInv := by
  unfold State.abort
  split
  next d _ => exact h.erasePlane hb d
  next => exact h

/-! ### The record in flight (R37, R98, R113) -/

theorem InFlight.Coherent.congr (h : r.Coherent s) (hm : t.mem = s.mem) (ht : t.tags = s.tags)
    (hb : t.build = s.build) (hmaxr : t.maxr = s.maxr) (hmaxv : t.maxv = s.maxv) : r.Coherent t := by
  obtain ⟨hwf, harg, htags, hmax, hsrc, hr, hv⟩ := h
  refine ⟨hb ▸ hwf, harg, ?_, hmax, (State.snapshots_congr hm ht hb _).trans hsrc, hmaxr ▸ hr, hmaxv ▸ hv⟩
  simpa only [State.tag, ht] using htags

/-- The record of an accepted command (R98, R250). -/
theorem coherent_record {i : Instr} {fs : List Snapshot} (hi : s.issueError i = none)
    (hfs : s.snapshots i.sources = some fs) : (s.record i fs).Coherent s := by
  obtain ⟨harg, hplanes, htags, hmax⟩ := issueError_eq_none_iff.mp hi
  exact ⟨(wellFormed_eq_planes _ _).trans hplanes, harg, List.all_eq_true.mp htags, hmax, hfs, rfl, rfl⟩

theorem InFlight.Coherent.dst_lt (h : r.Coherent s) (hd : r.instr.dst? = some d) : d.val < s.build.nplanes := by
  have hplanes := (wellFormed_eq_planes _ _).symm.trans h.wellFormed
  rw [List.all_eq_true] at hplanes
  exact of_decide_eq_true (hplanes d (by simp [Instr.planes, hd]))

/-! ### Reset (R40, R280, R281) -/

/-- The status registers after a reset, whatever is left of the memory. -/
theorem inv_of_reset {m : Memory} {es : List Event} {o : Option Word} {b : Build} (hb : b.legal = true)
    (hm : State.MemInv { State.resetOf b with mem := m }) :
    State.Inv { State.resetOf b with mem := m, agenda := es, rdata := o } where
  legal := hb
  mem := hm.congr rfl rfl
  status := by constructor <;> simp [State.resetOf]
  noTagBeyond q _ := by simp [State.resetOf, State.tag]
  record _ hr := nomatch hr

theorem memInv_of_empty (b : Build) : (State.resetOf b).MemInv where
  wf := List.Pairwise.nil
  backed _ hc := absurd hc List.not_mem_nil
  whole _ _ _ _ _ _ := rfl

/-- Settles O59: the state after reset has no memory, no tag, no record and no status bit set. -/
theorem resetSatisfiesTheInvariant : Obligations.ResetSatisfiesTheInvariant :=
  ⟨fun b hb => inv_of_reset hb (memInv_of_empty b), inv_of_reset (by decide) (memInv_of_empty _)⟩

theorem State.Inv.hardReset (h : s.Inv) : s.hardReset.Inv := inv_of_reset h.legal (memInv_of_empty _)

theorem State.Inv.softReset (h : s.Inv) : s.softReset.Inv := by
  rw [State.softReset_eq_resetOf]
  exact inv_of_reset h.legal ((h.mem.abort h.legal).congr rfl (State.abort_build s).symm)

/-! ### Accesses and errors -/

/-- The invariant speaks neither of `ARG`, `MARGIN` and `KCOEF` nor of the agenda and the port. -/
theorem State.Inv.of_free_fields (h : s.Inv) (arg margin : Word) (kcoef : Vector (BitVec 16) 25) (es : List Event)
    (o : Option Word) :
    State.Inv { s with arg := arg, margin := margin, kcoef := kcoef, agenda := es, rdata := o } := by
  obtain ⟨hlegal, hmem, ⟨herr, hinfo, hmax, hdone, hbusy, hcode⟩, htag, hrec⟩ := h
  exact ⟨hlegal, hmem.congr rfl rfl, ⟨herr, hinfo, hmax, hdone, hbusy, hcode⟩, htag,
    fun r hr => (hrec r hr).congr rfl rfl rfl rfl rfl⟩

theorem State.Inv.advance (h : s.Inv) (rest : List Event) : (s.advance rest).Inv :=
  h.of_free_fields s.arg s.margin s.kcoef rest none

theorem State.Inv.answer (h : s.Inv) (v : Word) : (s.answer v).Inv :=
  h.of_free_fields s.arg s.margin s.kcoef s.agenda (some v)

theorem State.Inv.writeWord (h : s.Inv) (hf : s.inflight = none) (hp : p.val < s.build.nplanes)
    (hi : i < s.build.size) : State.Inv { s with mem := s.mem.writeWord (planeAddr p i) v } := by
  obtain ⟨hlegal, hmem, ⟨herr, hinfo, hmax, hdone, hbusy, hcode⟩, htag, -⟩ := h
  exact ⟨hlegal, hmem.writeWord hlegal hp hi, ⟨herr, hinfo, hmax, hdone, hbusy, hcode⟩, htag,
    fun r hr => by simp [hf] at hr⟩

theorem State.Inv.setPtype (h : s.Inv) (hf : s.inflight = none) (p : PlaneNo) (v : Word) : (s.setPtype p v).Inv := by
  unfold State.setPtype
  split
  case isFalse => exact h
  case isTrue hp =>
    obtain ⟨hlegal, hmem, ⟨herr, hinfo, hmax, hdone, hbusy, hcode⟩, htag, -⟩ := h
    refine ⟨hlegal, hmem.congr rfl rfl, ⟨herr, hinfo, hmax, hdone, hbusy, hcode⟩, fun q hq => ?_,
      fun r hr => by simp [hf] at hr⟩
    have hq' : s.build.nplanes ≤ q.val := hq
    rw [State.tag_setTag, if_neg (by rintro rfl; omega)]
    exact htag q hq

/-- An OVERRUN enters the error record beside a command in flight; the other errors come with `DONE` cleared on an
idle engine (R250, R253, R255). -/
theorem State.Inv.cmdError (h : s.Inv) {e : ErrCode} (he : e ≠ .none) (hover : e = .overrun ∨ s.inflight = none)
    (hdone : s.done = false) : (s.cmdError e w).Inv where
  legal := h.legal
  mem := h.mem.congr rfl rfl
  status :=
    { errCode := iff_of_true rfl he
      errInfo := nofun
      maxReset := h.status.maxReset
      doneErr := fun hd => by simp [hdone] at hd
      busyDone := fun _ => hdone
      busyErr := fun hb => .inr (hover.resolve_right fun hf => by simp [hf] at hb) }
  noTagBeyond := h.noTagBeyond
  record r hr := (h.record r hr).congr rfl rfl rfl rfl rfl

theorem State.Inv.clearDone (h : s.Inv) : State.Inv { s with done := false } := by
  obtain ⟨hlegal, hmem, ⟨herr, hinfo, hmax, -, -, hcode⟩, htag, hrec⟩ := h
  exact ⟨hlegal, hmem.congr rfl rfl, ⟨herr, hinfo, hmax, nofun, fun _ => rfl, hcode⟩, htag,
    fun r hr => (hrec r hr).congr rfl rfl rfl rfl rfl⟩

theorem State.StatusInv.errcode_eq_none (h : s.StatusInv) (he : s.err = false) : s.errcode = .none := by
  by_contra hne
  exact absurd (h.errCode.mpr hne) (by simp [he])

theorem State.Inv.accept (h : s.Inv) (he : s.err = false) (hdone : s.done = false) (hr : r.Coherent s) :
    (s.accept r).Inv where
  legal := h.legal
  mem := h.mem.congr rfl rfl
  status :=
    { errCode := h.status.errCode
      errInfo := h.status.errInfo
      maxReset := h.status.maxReset
      doneErr := h.status.doneErr
      busyDone := fun _ => hdone
      busyErr := fun _ => .inl (h.status.errcode_eq_none he) }
  noTagBeyond := h.noTagBeyond
  record r' hr' := by
    obtain rfl : r = r' := by simpa using hr'
    exact hr.congr rfl rfl rfl rfl rfl

theorem State.Inv.writeCmd (h : s.Inv) (hw : writeCmd w s = .next t) : t.Inv := by
  obtain ⟨-, hdrop⟩ | ⟨-, hb, hover⟩ | ⟨-, hf, e, v, hnone, -, -, herr⟩ | ⟨he, -, i, fs, -, hi, hfs, hacc⟩ |
    ⟨-, -, i, -, -, -, hfault⟩ := writeCmd_cases w s
  · obtain rfl : t = s := by simpa [hw] using hdrop
    exact h
  · obtain rfl : t = s.cmdError .overrun w := by simpa [hw] using hover
    exact h.cmdError (by decide) (.inl rfl) (h.status.busyDone hb)
  · obtain rfl : t = { s with done := false }.cmdError e v := by simpa [hw] using herr
    exact h.clearDone.cmdError hnone (.inr hf) rfl
  · obtain rfl : t = { s with done := false }.accept (s.record i fs) := by simpa [hw] using hacc
    exact h.clearDone.accept he rfl ((coherent_record hi hfs).congr rfl rfl rfl rfl rfl)
  · simp [hw] at hfault

theorem State.Inv.writeReg (h : s.Inv) {x : Reg} (hw : writeReg v s x = .next t) : t.Inv := by
  cases x with
  | cmd => exact h.writeCmd hw
  | arg =>
    cases hw
    exact h.of_free_fields v s.margin s.kcoef s.agenda s.rdata
  | margin =>
    cases hw
    exact h.of_free_fields s.arg v s.kcoef s.agenda s.rdata
  | kcoef k =>
    cases hw
    exact h.of_free_fields s.arg s.margin _ s.agenda s.rdata
  | ctrl =>
    cases hw
    split
    next => exact h.softReset
    next => exact h
  | ptype q =>
    simp only [Machine.writeReg] at hw
    split at hw
    next => cases hw
    next hb =>
      cases hw
      exact h.setPtype (by simpa using hb) q v
  | _ =>
    cases hw
    exact h

/-! ### Completion (R114, R286) -/

theorem State.Inv.storePlane_memInv (h : s.Inv) (hf : s.inflight = some r) :
    (s.storePlane (resultOf r.instr s.build r).plane).MemInv := by
  obtain ⟨d, ty, ws, hd, hplane, hlen⟩ | ⟨-, hplane⟩ := resultOf_plane r.instr s.build r
  · rw [hplane]
    exact (h.mem.writeWords h.legal ((h.record r hf).dst_lt hd) hlen).congr rfl rfl
  · rw [hplane]
    exact h.mem

theorem State.Inv.storePlane_tag (h : s.Inv) (hf : s.inflight = some r) {q : PlaneNo} (hq : s.build.nplanes ≤ q.val) :
    (s.storePlane (resultOf r.instr s.build r).plane).tag q = .none := by
  obtain ⟨d, ty, ws, hd, hplane, -⟩ | ⟨-, hplane⟩ := resultOf_plane r.instr s.build r
  · have := (h.record r hf).dst_lt hd
    rw [hplane, State.tag_storePlane, if_neg (by rintro rfl; omega)]
    exact h.noTagBeyond q hq
  · rw [hplane]
    exact h.noTagBeyond q hq

theorem State.StatusInv.storeMax (h : s.StatusInv) (o : Option Word) (hv : (s.storeMax o).maxv = false) :
    (s.storeMax o).maxr = 0 := by
  cases o with
  | none => exact h.maxReset hv
  | some m => cases hv

theorem State.Inv.complete (h : s.Inv) (hf : s.inflight = some r) :
    (s.complete (resultOf r.instr s.build r)).Inv where
  legal := by simpa using h.legal
  mem := (h.storePlane_memInv hf).congr (by simp) (by simp)
  status :=
    { errCode := by simpa using h.status.errCode
      errInfo := by simpa using h.status.errInfo
      maxReset := by simpa using h.status.storeMax _
      doneErr := fun _ => by simpa using h.status.busyErr (by simp [hf])
      busyDone := nofun
      busyErr := nofun }
  noTagBeyond q hq := by
    rw [State.complete_build] at hq
    simpa only [State.tag, State.complete_tags] using h.storePlane_tag hf hq
  record _ hr := nomatch hr

theorem State.Inv.engineTurn (h : s.Inv) (ht : engineTurn s = .next t) : t.Inv := by
  cases hf : s.inflight with
  | none =>
    rw [engineTurn_idle hf] at ht
    cases ht
    exact h
  | some r =>
    rw [engineTurn_inflight hf] at ht
    cases ht
    exact h.complete hf

/-! ### Steps -/

/-- Settles O60: each of the things a step can do (`step_cases`) keeps the invariant, by the lemma of its operation. -/
theorem stepKeepsTheInvariant : Obligations.StepKeepsTheInvariant := by
  intro s t h hstep
  obtain ⟨-, ⟨rest, -, rfl⟩ | ⟨rest, -, hturn⟩ | ⟨rest, v, -, rfl⟩ | ⟨rest, a, v, -, hwrite⟩⟩ := step_cases hstep
  · exact (h.advance rest).hardReset
  · exact (h.advance rest).engineTurn hturn
  · exact (h.advance rest).answer v
  · obtain rfl | ⟨p, i, hb, htarget, rfl⟩ | ⟨r, -, hreg⟩ := hwrite
    · exact h.advance rest
    · obtain ⟨hp, hi, -⟩ := planeWord_of_targetOf htarget
      exact (h.advance rest).writeWord (by simpa using hb) hp hi
    · exact (h.advance rest).writeReg hreg

end Sys2Proof.Machine
end

section
/-!
PROOFS. The family of acceptance (30_encoding.md R98, 60_exceptions.md R250): each check of the decode procedure, the
record an accepted command leaves, and both as steps of the machine.
-/

namespace Sys2Proof.Machine

variable {s t : State} {w : Word} {i : Instr} {r : InFlight} {rest : List Event} {fs : List Snapshot} {p : PlaneNo}

/-! ### Words that do not decode (R96, R98) -/

/-- The opcodes of R95, in the order of the table. -/
def listedOpcodes : List Nat :=
  [0x10, 0x11, 0x01, 0x02, 0x08, 0x12, 0x13, 0x20, 0x21, 0x22, 0x30, 0x31, 0x32, 0x40, 0x41, 0x42, 0x43, 0x44, 0x50,
    0x51]

theorem exists_row_iff_listed {n : Nat} :
    (∃ row ∈ opcodeTable, n = bits row.pattern 7 0) ↔ n ∈ listedOpcodes := by
  have hlist : opcodeTable.map (fun row => bits row.pattern 7 0) = listedOpcodes := by decide
  rw [← hlist, List.mem_map]
  simp only [eq_comm]

/-- A word with a listed opcode fails to decode at its form: a reserved or unused field is not 0. -/
theorem reservedField_of_listed {e : DecodeError} (hd : decode w = .error e) (hw : bits w 7 0 ∈ listedOpcodes) :
    e = .reservedField := by
  unfold decode at hd
  split at hd
  case h_21 => simp_all [listedOpcodes]
  case h_14 => rw [formDSS] at hd; split at hd <;> cases hd; rfl
  case h_15 => rw [formDSSS] at hd; split at hd <;> cases hd; rfl
  case h_16 => rw [formS] at hd; split at hd <;> cases hd; rfl
  all_goals rw [formDS] at hd; split at hd <;> cases hd; rfl

/-- The error of a word that is no command, by its opcode alone. -/
theorem errCode_of_decode_error {e : DecodeError} (hd : decode w = .error e) :
    e.errCode =
      if ∃ row ∈ opcodeTable, bits w 7 0 = bits row.pattern 7 0 then .reservedField else .illegalOpcode := by
  simp only [exists_row_iff_listed]
  split
  next hlisted => rw [reservedField_of_listed hd hlisted]; rfl
  next hunlisted =>
    rw [decode_of_unlisted hunlisted] at hd
    cases hd
    rfl

/-! ### The checks that need the state (R98) -/

theorem issueError_of_arg (harg : i.argOk s.arg = false) : s.issueError i = some .reservedField := if_pos harg

theorem issueError_of_planes (harg : i.argOk s.arg = true) (hwf : i.wellFormed s.build = false) :
    s.issueError i = some .planeRange := by
  rw [wellFormed_eq_planes] at hwf
  rw [State.issueError, if_neg (by simp [harg]), if_pos hwf]

theorem issueError_of_tags (harg : i.argOk s.arg = true) (hwf : i.wellFormed s.build = true)
    (htag : ∃ p ∈ i.sources, p.2.ok (s.tag p.1) = false) : s.issueError i = some .typeMismatch := by
  rw [wellFormed_eq_planes] at hwf
  have hall : i.sources.all (fun p => p.2.ok (s.tag p.1)) = false := by simpa using htag
  rw [State.issueError, if_neg (by simp [harg]), if_neg (by simp [hwf]), if_pos hall]

theorem issueError_of_noMax (harg : i.argOk s.arg = true) (hwf : i.wellFormed s.build = true)
    (htag : ∀ p ∈ i.sources, p.2.ok (s.tag p.1) = true) (hmax : i.needsMax = true) (hv : s.maxv = false) :
    s.issueError i = some .noMax := by
  rw [wellFormed_eq_planes] at hwf
  have hall : i.sources.all (fun p => p.2.ok (s.tag p.1)) = true := List.all_eq_true.mpr htag
  rw [State.issueError, if_neg (by simp [harg]), if_neg (by simp [hwf]), if_neg (by simp [hall]),
    if_pos (by simp [hmax, hv])]

theorem issueError_of_legal (harg : i.argOk s.arg = true) (hwf : i.wellFormed s.build = true)
    (htag : ∀ p ∈ i.sources, p.2.ok (s.tag p.1) = true) (hmax : i.needsMax = true → s.maxv = true) :
    s.issueError i = none :=
  issueError_eq_none_iff.mpr ⟨harg, (wellFormed_eq_planes _ _).symm.trans hwf, List.all_eq_true.mpr htag, hmax⟩

theorem issue_error {e : ErrCode} (h : s.issueError i = some e) : issue i s = .next (s.cmdError e (encode i)) := by
  rw [issue, h]

theorem issue_unwritten (hi : s.issueError i = none) (hfs : s.snapshots i.sources = none) :
    issue i s = .fault .unwrittenSource := by
  rw [issue, hi]
  simp only [hfs]

/-! ### Unwritten words (R30, R113) -/

theorem Memory.readWords_eq_none_iff {m : Memory} {a n : Nat} :
    m.readWords a n = none ↔ ∃ k < n, m.readWord (a + 4 * k) = none := by
  constructor
  · intro h
    by_contra! hall
    have hwords (k : Nat) (hk : k < n) := Option.isSome_iff_exists.mp (Option.isSome_iff_ne_none.mpr (hall k hk))
    choose f hf using hwords
    have hread : m.readWords a n = some (List.ofFn fun k : Fin n => f k k.isLt) :=
      Memory.readWords_eq_some_iff.mpr ⟨by simp, fun k hk => by simp [hf k (by simpa using hk)]⟩
    simp [hread] at h
  · rintro ⟨k, hk, hnone⟩
    cases h : m.readWords a n with
    | none => rfl
    | some ws =>
      obtain ⟨hlen, hwords⟩ := Memory.readWords_eq_some_iff.mp h
      simp [hwords k (by omega)] at hnone

theorem State.planeWords_eq_none_iff : s.planeWords p = none ↔ ∃ k < s.build.size, s.planeWord p k = none := by
  rw [State.planeWords_eq]
  exact Memory.readWords_eq_none_iff

/-- A source cannot be copied exactly if one of its words has no value. -/
theorem State.snapshots_eq_none_iff {ps : List (PlaneNo × TagRule)} :
    s.snapshots ps = none ↔ ∃ p ∈ ps, ∃ k < s.build.size, s.planeWord p.1 k = none := by
  induction ps with
  | nil => simp [State.snapshots]
  | cons p ps ih =>
    simp only [List.mem_cons, exists_eq_or_imp]
    rw [← ih, ← State.planeWords_eq_none_iff, State.snapshots]
    cases s.planeWords p.1 <;> cases s.snapshots ps <;> simp

theorem exists_snapshots_of_written {ps : List (PlaneNo × TagRule)} (h : ∀ p ∈ ps, s.Written p.1) :
    ∃ fs, s.snapshots ps = some fs := by
  refine Option.ne_none_iff_exists'.mp fun hnone => ?_
  obtain ⟨p, hp, k, hk, hword⟩ := State.snapshots_eq_none_iff.mp hnone
  simpa [hword] using h p hp k hk

/-! ### The decode procedure (R98) -/

/-- A word that decodes, on an engine neither busy nor in error, runs its command (R250). -/
theorem writeCmd_decoded (he : s.err = false) (hf : s.inflight = none) (hd : decode w = .ok i) :
    writeCmd w s = exec i { s with done := false } :=
  (writeCmd_of_ok he hf hd).trans (exec_idle (s := { s with done := false }) hf).symm

/-- The word an error entry records is the one written: it is the word of the command it decodes to. -/
theorem writeCmd_error_of_ok {e : ErrCode} (he : s.err = false) (hf : s.inflight = none) (hd : decode w = .ok i)
    (h : s.issueError i = some e) : writeCmd w s = .next ({ s with done := false }.cmdError e w) := by
  have hissue := issue_error (s := { s with done := false }) h
  rw [encode_of_decode hd] at hissue
  exact (writeCmd_of_ok he hf hd).trans hissue

/-- Settles O7: each hypothesis is the answer of one check of `issueError` (the checks before it passed), and the
source snapshots exist exactly if every source word is written. -/
theorem decodeProcedureOfCommandWords : Obligations.DecodeProcedureOfCommandWords := by
  intro s w he hf s'
  refine ⟨fun code hno hcode => ?_, fun i hd => ⟨fun harg => ?_, fun harg hwf => ?_, fun harg hwf htag => ?_,
    fun harg hwf htag => ⟨fun ⟨hneeds, hv⟩ => ?_, fun hmax => ⟨fun fs hfs => ?_, fun hunwritten => ?_⟩⟩⟩⟩
  · cases hd : decode w with
    | ok i => exact absurd hd (hno i)
    | error e =>
      rw [hcode, ← errCode_of_decode_error hd]
      exact writeCmd_of_decode_error he hf hd
  · exact writeCmd_error_of_ok he hf hd (issueError_of_arg harg)
  · exact writeCmd_error_of_ok he hf hd (issueError_of_planes harg hwf)
  · exact writeCmd_error_of_ok he hf hd (issueError_of_tags harg hwf htag)
  · exact writeCmd_error_of_ok he hf hd (issueError_of_noMax harg hwf htag hneeds hv)
  · have hi : s'.issueError i = none := issueError_of_legal (s := s) harg hwf htag hmax
    exact (writeCmd_of_ok he hf hd).trans (issue_accepted hi (snapshots_of_snapshotOf (s := s') hfs))
  · have hi : s'.issueError i = none := issueError_of_legal (s := s) harg hwf htag hmax
    exact (writeCmd_of_ok he hf hd).trans (issue_unwritten hi (State.snapshots_eq_none_iff.mpr hunwritten))

/-- Settles O8: the checks pass and the snapshots are those of the sources. -/
theorem legalCommandsAreAccepted : Obligations.LegalCommandsAreAccepted :=
  fun _ _ _ hf hwf harg htag hmax hfs =>
    (exec_idle hf).trans (issue_accepted (issueError_of_legal harg hwf htag hmax) (snapshots_of_snapshotOf hfs))

/-! ### Source types (R95, R110) -/

/-- A command on an idle engine whose planes are among four planes of the build, and a source of another type. -/
theorem exec_typeMismatch {d a b c : PlaneNo} (hf : s.inflight = none)
    (hrange : ∀ p ∈ [d, a, b, c], p.val < s.build.nplanes) (htag : ∃ p ∈ i.sources, p.2.ok (s.tag p.1) = false)
    (hi : i.planes ⊆ [d, a, b, c] := by simp [Instr.planes, Instr.dst?, Instr.sources])
    (harg : i.argOk s.arg = true) :
    exec i s = .next { s with err := true, errcode := .typeMismatch, errinfo := encode i } := by
  have hwf : i.wellFormed s.build = true := by
    rw [wellFormed_eq_planes, List.all_eq_true]
    exact fun p hp => decide_eq_true (hrange p (hi hp))
  exact (exec_idle hf).trans (issue_error (issueError_of_tags harg hwf htag))

/-- The rule of a command's only source names one type, and any other tag fails it. -/
theorem exists_source_not_ok {a : PlaneNo} {ty : Tag} (hsrc : i.sources = [(a, .exactly ty)]) (htag : s.tag a ≠ ty) :
    ∃ p ∈ i.sources, p.2.ok (s.tag p.1) = false := by
  simp [hsrc, TagRule.ok, htag]

/-- Settles O9: the tag fails the rule the opcode map gives a source of the command. -/
theorem wrongSourceTypesMismatch : Obligations.WrongSourceTypesMismatch := by
  intro s d a b c hf hrange bad
  have hone {i : Instr} {ty : Tag} (htag : s.tag a ≠ ty) (hi : i.planes ⊆ [d, a, b, c])
      (hsrc : i.sources = [(a, .exactly ty)]) : bad i :=
    exec_typeMismatch hf hrange (exists_source_not_ok hsrc htag) hi
  have hlist {l : List Instr} {ty : Tag} (htag : s.tag a ≠ ty)
      (hl : ∀ i ∈ l, i.planes ⊆ [d, a, b, c] ∧ i.sources = [(a, .exactly ty)]) : ∀ i ∈ l, bad i :=
    fun i hi => hone htag (hl i hi).1 (hl i hi).2
  refine ⟨fun htag => hlist htag ?_, fun htag => hlist htag ?_, fun htag => exec_typeMismatch hf hrange ?_,
    fun htag => hone htag ?_ rfl, fun htag => ⟨hone htag ?_ rfl, hone htag ?_ rfl⟩, fun htag => hone htag ?_ rfl,
    fun htag => exec_typeMismatch hf hrange ?_, fun htag => exec_typeMismatch hf hrange ?_⟩
  all_goals simp [Instr.planes, Instr.dst?, Instr.sources, TagRule.ok, htag]

/-! ### Acceptance as a step (R250) -/

theorem step_writeCmd (hb : s.build.legal = true) (ha : s.agenda = .write 0x000 4 w :: rest) :
    step s = writeCmd w (s.advance rest) := by
  have hstep : step s = hostWrite 0x000 4 w (s.advance rest) := by
    rw [step, if_pos hb]
    simp only [takeTurn, ha]
  rw [hstep, hostWrite_register (r := .cmd) rfl]
  rfl

/-- Settles O10: the step is the write of the word to `CMD`, whose three cases follow the order of R250. -/
theorem commandAcceptanceRule : Obligations.CommandAcceptanceRule := by
  intro s w rest hb ha s'
  rw [step_writeCmd hb ha]
  refine ⟨fun he => writeCmd_of_err he, fun he hbusy => writeCmd_of_busy (s := s') he hbusy, fun he hbusy => ?_⟩
  have hf : s.inflight = none := by simpa using hbusy
  cases hd : decode w with
  | error e => exact writeCmd_of_decode_error (s := s') he hf hd
  | ok i => exact writeCmd_decoded (s := s') he hf hd

theorem decode_of_decodeTableWord {n v : Nat} (h : decodeTableWord n v = some i) : decode (tableWord n v) = .ok i := by
  unfold decodeTableWord at h
  split at h
  · rename_i hd
    cases h
    exact hd
  · cases h

theorem step_decoded (hs : s.Ready) (ha : s.agenda = .write 0x000 4 w :: rest) (hd : decode w = .ok i) :
    step s = exec i { s with agenda := rest, rdata := none, done := false } := by
  obtain ⟨hb, hf, he⟩ := hs
  rw [step_writeCmd hb ha]
  exact writeCmd_decoded (s := s.advance rest) he hf hd

/-- Settles O56: a word that decodes, offered to a ready block, is issued in the step that takes it. -/
theorem stepRunsTheDecodedCommand : Obligations.StepRunsTheDecodedCommand :=
  ⟨fun _ _ _ _ hs ha hd => step_decoded hs ha hd, fun s n v _ hb hd =>
    step_decoded (s := s.withFetchWord n v) ⟨hb, rfl, rfl⟩ rfl (decode_of_decodeTableWord hd)⟩

/-! ### Completion as a step (R286) -/

theorem engineTurn_eq_exec (h : s.inflight = some r) : engineTurn s = exec r.instr s := by
  rw [engineTurn, h]

/-- Settles O57: on each of the three agendas the turn is the engine's. -/
theorem stepCompletesTheCommandInFlight : Obligations.StepCompletesTheCommandInFlight := by
  intro s r rest hb hf
  have hturn (es : List Event) : engineTurn (s.advance es) = exec r.instr (s.advance es) := engineTurn_eq_exec hf
  refine ⟨fun ha => ?_, fun ha => ?_, fun ha => ?_⟩
  · rw [step, if_pos hb, takeTurn, ha]
    exact hturn rest
  · rw [step, if_pos hb, takeTurn, ha]
    exact (hturn []).trans (by rw [State.advance, ← ha])
  · have hbusy : s.busy = true := by simp [hf]
    rw [step_wait hb ha, waitTurn, if_pos hbusy]
    exact hturn s.agenda

/-- Settles O58: the sources are written, so the command is accepted with their snapshots, completes with its result
(`exec_inflight`), and the three steps are those of `run_command`. -/
theorem commandThenWaitCompletes : Obligations.CommandThenWaitCompletes := by
  intro s i rest hs hwf harg hsrc hmax ha
  obtain ⟨fs, hfs⟩ := exists_snapshots_of_written fun p hp => (hsrc p hp).2
  have hi : s.issueError i = none := issueError_of_legal harg hwf (fun p hp => (hsrc p hp).1) hmax
  let s' : State := { s with agenda := .wait :: rest, rdata := none, done := false }
  have hfs' : s'.snapshots i.sources = some fs :=
    (State.snapshots_congr (s := s) (t := s') rfl rfl rfl _).trans hfs
  let accepted := s'.accept (s.record i fs)
  let completed := accepted.complete (resultOf i s.build (s.record i fs))
  have hstatus : bits completed.statusWord 0 0 = 0 := completed.statusWord_fields.1
  have hcompleted : completed = { s.complete (resultOf i s.build (s.record i fs)) with
      agenda := .wait :: rest, rdata := none } := State.complete_inFlight s _ _ _ _ _
  have ⟨_, hf, _⟩ := hs
  refine ⟨accepted, completed, (exec_idle (s := s') hf).trans (issue_accepted (s := s') hi hfs'), rfl,
    exec_inflight rfl rfl, rfl, rfl, hstatus, ?_⟩
  have hrun := run_command (k := 0) (rest := rest) hs hi hfs
  rw [← ha] at hrun
  rw [hcompleted]
  exact hrun

end Sys2Proof.Machine
end

section
/-!
PROOFS. The family of the host port (10_state.md, 20_memory.md): `ARG`, `MARGIN` and `PTYPE`; reads and writes of plane
words; accesses while a command is in flight; and where the machine faults.
-/

namespace Sys2Proof.Machine

variable {s t : State} {a v w : Word} {p : PlaneNo} {i size : Nat} {rest : List Event} {f : Fault}

/-! ### `ARG` and `MARGIN` (R22, R32) -/

/-- Settles O45: each register holds the word written, which the read that follows returns. -/
theorem argAndMarginRegisters : Obligations.ArgAndMarginRegisters := fun s v _ hb =>
  ⟨run_write_read_register (r := .arg) (t := { s with arg := v, rdata := none }) hb rfl rfl hb,
    run_write_read_register (r := .margin) (t := { s with margin := v, rdata := none }) hb rfl rfl hb,
    step_read_register (r := .arg) (s := State.resetOf s.build) hb rfl,
    step_read_register (r := .margin) (s := State.resetOf s.build) hb rfl⟩

/-! ### `PTYPE` (R31) -/

/-- The code a tag register shows after a code is written: 8 and more store NONE. -/
theorem Tag.code_ofCode : ∀ n, (Tag.ofCode n).code = if n ≤ 7 then n else 0
  | 0 | 1 | 2 | 3 | 4 | 5 | 6 | 7 => rfl
  | n + 8 => by rw [if_neg (by omega)]; rfl

theorem toNat_address_ptype (p : PlaneNo) : (BitVec.ofNat 32 (0x200 + 4 * p.val)).toNat = (Reg.ptype p).offset :=
  Nat.mod_eq_of_lt (by have := p.isLt; omega)

theorem writeReg_ptype (hf : s.inflight = none) (p : PlaneNo) (v : Word) :
    writeReg v s (.ptype p) = .next (s.setPtype p v) :=
  if_neg (by simp [hf])

/-- A tag written and read back on an idle block that has the plane. -/
theorem run_write_read_ptype (hb : s.build.legal = true) (hf : s.inflight = none) (hp : p.val < s.build.nplanes)
    (ha : a.toNat = (Reg.ptype p).offset) :
    Host.Core.run core 2 { s with agenda := .write a 4 v :: .read a 4 :: rest } =
      .next { s.setTag p (Tag.ofCode (bits v 3 0)) with
        agenda := rest
        rdata := some (BitVec.ofNat 32 (Tag.ofCode (bits v 3 0)).code) } := by
  have hread : (s.setTag p (Tag.ofCode (bits v 3 0))).readReg (.ptype p) =
      BitVec.ofNat 32 (Tag.ofCode (bits v 3 0)).code := by
    rw [State.readReg, State.tag_setTag, if_pos rfl]
    exact if_pos hp
  rw [← hread]
  exact run_write_read_register (t := { s.setTag p (Tag.ofCode (bits v 3 0)) with rdata := none }) hb ha
    ((writeReg_ptype (s := { s with agenda := .read a 4 :: rest, rdata := none }) hf p v).trans
      (congrArg _ (if_pos hp))) hb

/-- The tag register of a plane the build does not have ignores the write and shows 0. -/
theorem run_write_read_ptype_absent (hb : s.build.legal = true) (hf : s.inflight = none)
    (hp : s.build.nplanes ≤ p.val) (ha : a.toNat = (Reg.ptype p).offset) :
    Host.Core.run core 2 { s with agenda := .write a 4 v :: .read a 4 :: rest } =
      .next { s with agenda := rest, rdata := some 0 } := by
  have hread : s.readReg (.ptype p) = 0 := if_neg (Nat.not_lt.mpr hp)
  rw [← hread]
  exact run_write_read_register (t := { s with rdata := none }) hb ha
    ((writeReg_ptype (s := { s with agenda := .read a 4 :: rest, rdata := none }) hf p v).trans
      (congrArg _ (if_neg (Nat.not_lt.mpr hp)))) hb

/-- Settles O46: the tag of `v[3:0]` by its code, and the two cases of a plane the build has or has not. -/
theorem ptypeRegisters : Obligations.PtypeRegisters := by
  intro s p v rest hb addr
  have ha := toNat_address_ptype p
  refine ⟨step_read_register hb ha, fun hf hp => ⟨_, run_write_read_ptype hb hf hp ha, rfl, fun q hq => ?_, ?_, ?_⟩,
    fun hf hp => run_write_read_ptype_absent hb hf hp ha⟩
  · exact (s.tag_setTag p q _).trans (if_neg hq)
  · rw [Tag.code_ofCode]
  · exact (congrArg Tag.code ((s.tag_setTag p p _).trans (if_pos rfl))).trans (Tag.code_ofCode _)

/-! ### Plane words on an idle block (R62) -/

theorem step_read_written (hb : s.build.legal = true) (hf : s.inflight = none) (hp : p.val < s.build.nplanes)
    (hi : i < s.build.size) (ha : a.toNat = planeAddr p i) (hw : s.planeWord p i = some w) :
    step { s with agenda := .read a 4 :: rest } = .next { s with agenda := rest, rdata := some w } := by
  rw [step_read hb]
  exact hostRead_planeWord (s := { s with agenda := rest, rdata := none }) hf (accessRefusal_planeAddr ha)
    (targetOf_planeWord hb hp hi ha) hw

theorem step_write_word (hb : s.build.legal = true) (hf : s.inflight = none) (hp : p.val < s.build.nplanes)
    (hi : i < s.build.size) (ha : a.toNat = planeAddr p i) :
    step { s with agenda := .write a 4 v :: rest } =
      .next { s with mem := s.mem.writeWord (planeAddr p i) v, agenda := rest, rdata := none } := by
  rw [step_write hb]
  exact hostWrite_planeWord (s := { s with agenda := rest, rdata := none }) hf (accessRefusal_planeAddr ha)
    (targetOf_planeWord hb hp hi ha)

/-- Settles O50: `PUT` is the write of the pixel's word and `GET` its read, and the write reaches four bytes. -/
theorem putThenGetReturnsTheWord : Obligations.PutThenGetReturnsTheWord := by
  intro s p x y v hb hf hwf hp hx hy
  have hi := index_lt_size hx hy
  have ha := toNat_address_planeWord (p := p) hb hi
  let t : State := { s with mem := s.mem.writeWord (pixelAddr s.build p x y) (BitVec.ofInt 32 v), rdata := none }
  have hput : step { s with agenda := assemble s.build [.put p x y v, .get p x y] } =
      .next { t with agenda := [.read (BitVec.ofNat 32 (pixelAddr s.build p x y)) 4] } :=
    step_write_word hb hf hp hi ha
  have hword : t.planeWord p (x + y * s.build.width) = some (BitVec.ofInt 32 v) :=
    Memory.readWord_writeWord_self hwf
  have hget := step_read_written (s := t) (rest := []) hb hf hp hi ha hword
  refine ⟨_, (run_of_next (M := core) hput).trans (run_of_next (M := core) hget), rfl, fun c hc => ?_⟩
  have hout : ¬ (pixelAddr s.build p x y ≤ c ∧ c < pixelAddr s.build p x y + 4) := by
    unfold pixelAddr planeAddr planeBase
    omega
  exact (Memory.read_writeWord hwf).trans (if_neg hout)

/-! ### Accesses while a command is in flight (R284) -/

theorem step_access_refused_of_busy (hb : s.build.legal = true) (hbusy : s.busy = true) (ha : bits a 1 0 = 0)
    (ht : targetOf s.build a = .planeWord p i) :
    step { s with agenda := .read a 4 :: rest } = .refused .planeAccessWhileBusy ∧
      step { s with agenda := .write a 4 v :: rest } = .refused .planeAccessWhileBusy := by
  have hport : accessRefusal a 4 = none := accessRefusal_eq_none_iff.mpr ⟨rfl, ha⟩
  rw [step_read hb, step_write hb, hostRead, hostWrite, hport]
  simp only [ht]
  exact ⟨if_pos hbusy, if_pos hbusy⟩

/-- Every register but the tags takes a write while a command is in flight. -/
theorem writeReg_goes_on_of_busy (hbusy : s.busy = true) {r : Reg} (hr : ∀ p, r ≠ .ptype p) (v : Word) :
    ∃ t, writeReg v s r = .next t := by
  cases r with
  | ptype p => exact absurd rfl (hr p)
  | cmd =>
    cases he : s.err with
    | true => exact ⟨_, writeCmd_of_err he⟩
    | false => exact ⟨_, writeCmd_of_busy he hbusy⟩
  | _ => exact ⟨_, rfl⟩

/-- Settles O52: by the target of the address, which is the plane word, a register or nothing. -/
theorem planeAccessesWhileBusyAreRefused : Obligations.PlaneAccessesWhileBusyAreRefused := by
  intro s a v rest hb hbusy ha word ptype
  refine ⟨?_, ?_, fun hword => ?_, fun hword hptype => ?_⟩
  · rintro ⟨p, i, hp, hi, haddr⟩
    obtain ⟨-, -, -, -, hplanes⟩ := (legal_iff _).mp hb
    have hp16 : p < 16 := hp.trans_le hplanes
    exact step_access_refused_of_busy hb hbusy ha (targetOf_planeWord (p := ⟨p, hp16⟩) hb hp hi haddr)
  · rintro ⟨p, hp, haddr⟩
    rw [step_write_register (r := .ptype ⟨p, hp⟩) hb haddr]
    exact if_pos hbusy
  · cases ht : targetOf s.build a with
    | unbacked => exact ⟨_, step_read_unbacked hb ha ht⟩
    | register r => exact ⟨_, step_read_register hb (register_of_targetOf ht)⟩
    | planeWord p i =>
      obtain ⟨hp, hi, haddr⟩ := planeWord_of_targetOf ht
      exact absurd ⟨p, i, hp, hi, haddr ha⟩ hword
  · cases ht : targetOf s.build a with
    | unbacked => exact ⟨_, step_write_unbacked hb ha ht⟩
    | register r =>
      have haddr := register_of_targetOf ht
      have hr : ∀ p, r ≠ .ptype p := by
        rintro p rfl
        exact hptype ⟨p, p.isLt, haddr⟩
      rw [SafeStep, step_write_register hb haddr]
      exact writeReg_goes_on_of_busy (s := { s with agenda := rest, rdata := none }) hbusy hr v
    | planeWord p i =>
      obtain ⟨hp, hi, haddr⟩ := planeWord_of_targetOf ht
      exact absurd ⟨p, i, hp, hi, haddr ha⟩ hword

/-! ### Reads (R67) -/

/-- Settles O53: of the things a step can do, only an answer has a read at the front of the agenda. -/
theorem readsHaveNoSideEffect : Obligations.ReadsHaveNoSideEffect := by
  intro s t a size rest ha hstep
  obtain ⟨-, ⟨rest', ha', -⟩ | ⟨rest', ha', -⟩ | ⟨rest', v, ha', rfl⟩ | ⟨rest', a', v, ha', -⟩⟩ := step_cases hstep
  · simp [ha] at ha'
  · simp [ha] at ha'
  · obtain rfl : rest = rest' := by
      simp only [ha, reduceCtorEq, List.cons.injEq, Event.read.injEq, false_and, false_or] at ha'
      obtain ⟨_, _, -, hrest⟩ := ha'
      exact hrest
    exact ⟨v, rfl⟩
  · simp [ha] at ha'

/-! ### Faults (R30) -/

theorem hostRead_fault (h : hostRead a size s = .fault f) :
    f = .unwrittenRead ∧ size = 4 ∧ ∃ (p : PlaneNo) (i : Nat), p.val < s.build.nplanes ∧ i < s.build.size ∧
      a.toNat = planeAddr p i ∧ s.planeWord p i = none := by
  unfold hostRead at h
  split at h
  · cases h
  · rename_i hport
    obtain ⟨hsize, ha⟩ := accessRefusal_eq_none_iff.mp hport
    split at h
    · cases h
    · cases h
    · rename_i p i ht
      obtain ⟨hp, hi, haddr⟩ := planeWord_of_targetOf ht
      split at h
      · cases h
      · split at h
        · cases h
        · rename_i hnone
          cases h
          exact ⟨rfl, hsize, p, i, hp, hi, haddr ha, hnone⟩

theorem writeReg_fault {r : Reg} (h : writeReg v s r = .fault f) : r = .cmd ∧ writeCmd v s = .fault f := by
  cases r with
  | cmd => exact ⟨rfl, h⟩
  | ptype p =>
    simp only [writeReg] at h
    split at h <;> cases h
  | _ => cases h

theorem hostWrite_fault (h : hostWrite a size v s = .fault f) : size = 4 ∧ a = 0x000 ∧ writeCmd v s = .fault f := by
  unfold hostWrite at h
  split at h
  · cases h
  · rename_i hport
    split at h
    · cases h
    · rename_i r ht
      obtain ⟨rfl, hcmd⟩ := writeReg_fault h
      exact ⟨(accessRefusal_eq_none_iff.mp hport).1, BitVec.eq_of_toNat_eq (register_of_targetOf ht), hcmd⟩
    · split at h <;> cases h

theorem writeCmd_fault (h : writeCmd w s = .fault f) :
    f = .unwrittenSource ∧ ∃ i, decode w = .ok i ∧ ∃ p ∈ i.sources, ∃ k < s.build.size, s.planeWord p.1 k = none := by
  obtain ⟨-, hdrop⟩ | ⟨-, -, hover⟩ | ⟨-, -, e, v, -, -, -, herr⟩ | ⟨-, -, i, fs, -, -, -, hacc⟩ |
    ⟨-, -, i, hd, -, hfs, hfault⟩ := writeCmd_cases w s
  · simp [h] at hdrop
  · simp [h] at hover
  · simp [h] at herr
  · simp [h] at hacc
  · obtain rfl : f = .unwrittenSource := by simpa [h] using hfault
    exact ⟨rfl, i, hd, State.snapshots_eq_none_iff.mp hfs⟩

theorem engineTurn_ne_fault : engineTurn s ≠ .fault f := by
  obtain ⟨t, ht⟩ := engineTurn_next s
  simp [ht]

/-- A step that faults is a read that faults or a write that faults: the engine's turn and the resets go on. -/
theorem step_fault (h : step s = .fault f) :
    (∃ a size rest, s.agenda = .read a size :: rest ∧ hostRead a size (s.advance rest) = .fault f) ∨
      ∃ a size v rest, s.agenda = .write a size v :: rest ∧ hostWrite a size v (s.advance rest) = .fault f := by
  unfold step at h
  split at h
  case isFalse => cases h
  unfold takeTurn at h
  split at h
  case h_1 => exact absurd h engineTurn_ne_fault
  case h_2 a size rest ha => exact .inl ⟨a, size, rest, ha, h⟩
  case h_3 a size v rest ha => exact .inr ⟨a, size, v, rest, ha, h⟩
  case h_4 =>
    unfold waitTurn at h
    split at h
    · exact absurd h engineTurn_ne_fault
    · cases h
  case h_5 => exact absurd h engineTurn_ne_fault
  case h_6 => cases h

/-- Settles O54: a fault is that of the read, or of the command written, at the front of the agenda; and the read of a
backed word answers or faults as the word is written or not. -/
theorem faultsAreUnwrittenWords : Obligations.FaultsAreUnwrittenWords := by
  refine ⟨fun s f h => ?_, fun s p i a rest hb hf hp hi ha => ⟨fun w hw => ?_, fun hw => ?_⟩⟩
  · obtain ⟨a, size, rest, ha, hread⟩ | ⟨a, size, v, rest, ha, hwrite⟩ := step_fault h
    · obtain ⟨rfl, rfl, p, i, hp, hi, haddr, hnone⟩ := hostRead_fault hread
      exact .inl ⟨rfl, a, rest, p, i, ha, hp, hi, haddr, hnone⟩
    · obtain ⟨rfl, rfl, hcmd⟩ := hostWrite_fault hwrite
      obtain ⟨rfl, i, hd, hsrc⟩ := writeCmd_fault hcmd
      exact .inr ⟨rfl, v, rest, i, ha, hd, hsrc⟩
  · exact step_read_written hb hf hp hi ha hw
  · obtain rfl : a = BitVec.ofNat 32 (planeAddr p i) :=
      BitVec.eq_of_toNat_eq (ha.trans (toNat_address_planeWord hb hi).symm)
    exact step_read_unwritten hb hf hp hi hw

end Sys2Proof.Machine
end

section
/-!
PROOFS. The family of completion (files 40 to 46), first part: what a completed command leaves as a frame of words, the
fields of a source word, and the commands that compute one pixel from one pixel.
-/

namespace Sys2Proof.Machine

variable {s : State} {b : Build} {r : InFlight} {i : Instr} {d : PlaneNo} {t : Tag} {k x y : Nat} {w : Word}

/-! ### Completion with a frame (R114, R286) -/

/-- A command in flight whose result is a frame that agrees with `out` on the pixels of the frame completes with it. -/
theorem completesWith_of_frame {out out' : Nat → Nat → Word} (h : s.inflight = some r) (hi : r.instr = i)
    (hres : resultOf i s.build r = .toPlane d t (frameOf s.build out'))
    (hout : ∀ x y, x < s.build.width → y < s.build.height → out' x y = out x y) : CompletesWith i s d t out := by
  rw [frameOf_congr hout] at hres
  have hdone := completesBoth_of_resultOf h hi (congrArg Result.plane hres)
  rw [hres] at hdone
  exact hdone

/-! ### The fields of a source word (R100 to R106) -/

theorem toNat_extractLsb' (w : Word) (lo n : Nat) : (w.extractLsb' lo (n + 1)).toNat = bits w (lo + n) lo := by
  rw [BitVec.extractLsb'_toNat, Nat.shiftRight_eq_div_pow, bits, Nat.add_sub_cancel_left]

theorem toNat_decodeU8 (w : Word) : (decodeU8 w).toNat = bits w 7 0 := toNat_extractLsb' w 0 7

theorem toNat_decodeU16 (w : Word) : (decodeU16 w).toNat = bits w 15 0 := toNat_extractLsb' w 0 15

theorem toNat_decodeRgb_r (w : Word) : (decodeRgb w).r.toNat = bits w 7 0 := toNat_extractLsb' w 0 7

theorem toNat_decodeRgb_g (w : Word) : (decodeRgb w).g.toNat = bits w 15 8 := toNat_extractLsb' w 8 7

theorem toNat_decodeRgb_b (w : Word) : (decodeRgb w).b.toNat = bits w 23 16 := toNat_extractLsb' w 16 7

theorem decodeS16_eq_setWidth (w : Word) : decodeS16 w = w.setWidth 16 :=
  (BitVec.setWidth_eq_extractLsb' (by decide)).symm

theorem bits_byte_lt (w : Word) : bits w 7 0 < 256 := Nat.mod_lt _ (by decide)

/-! ### Values narrowed to an element (R15, R16) -/

theorem asr_natCast (n k : Nat) : asr n k = ((n / 2 ^ k : Nat) : Int) := by
  rw [asr]
  push_cast
  rfl

theorem encodeU8_ofNat {n : Nat} (h : n < 256) : encodeU8 (BitVec.ofNat 8 n) = BitVec.ofNat 32 n := by
  apply BitVec.eq_of_toNat_eq
  rw [toNat_encodeU8, BitVec.toNat_ofNat, BitVec.toNat_ofNat]
  omega

theorem encodeU8_eq_ofNat (v : Byte) : encodeU8 v = BitVec.ofNat 32 v.toNat := by
  apply BitVec.eq_of_toNat_eq
  rw [toNat_encodeU8, BitVec.toNat_ofNat]
  omega

theorem encodeU16_ofInt (z : Int) : encodeU16 (BitVec.ofInt 16 z) = BitVec.ofInt 32 (z % 65536) := by
  apply BitVec.eq_of_toNat_eq
  rw [toNat_encodeU16, BitVec.toNat_ofInt, BitVec.toNat_ofInt]
  omega

theorem encodeS16_ofInt {z : Int} (hlow : -2 ^ 15 ≤ z) (hhigh : z < 2 ^ 15) :
    encodeS16 (BitVec.ofInt 16 z) = BitVec.ofInt 32 z := by
  apply BitVec.eq_of_toInt_eq
  rw [toInt_encodeS16, BitVec.toInt_ofInt, BitVec.toInt_ofInt, Int.bmod_eq_of_le (by omega) (by omega),
    Int.bmod_eq_of_le (by omega) (by omega)]

theorem encodeWPix_ofInt (z : Int) (c : PixelKind) :
    encodeWPix ⟨BitVec.ofInt 16 z, c⟩ = BitVec.ofInt 32 (2 ^ 16 * c.code.toNat + z % 2 ^ 16) := by
  apply BitVec.eq_of_toNat_eq
  have := c.code.isLt
  rw [toNat_encodeWPix, BitVec.toNat_ofInt, BitVec.toNat_ofInt]
  dsimp only
  omega

/-! ### TOGRAY, TORGB and COPY (R140 to R142) -/

theorem luma_eq (e : Rgb) :
    luma e = BitVec.ofNat 8 ((77 * e.r.toNat + 150 * e.g.toNat + 28 * e.b.toNat) / 256) := by
  have hsum : (lumaR * e.r.toNat + lumaG * e.g.toNat + lumaB * e.b.toNat : Int) =
      ((77 * e.r.toNat + 150 * e.g.toNat + 28 * e.b.toNat : Nat) : Int) := by
    push_cast
    rfl
  rw [luma, hsum, asr_natCast, BitVec.ofInt_natCast]
  rfl

/-- Settles O16: the weights sum to 255, so the luma fits a byte. -/
theorem tograyCompletes : Obligations.TograyCompletes := by
  refine fun s r d a hf hi => completesWith_of_frame hf hi rfl fun x y _ _ => ?_
  have hr := (decodeRgb (r.pixel s.build 0 x y)).r.isLt
  have hg := (decodeRgb (r.pixel s.build 0 x y)).g.isLt
  have hb := (decodeRgb (r.pixel s.build 0 x y)).b.isLt
  dsimp only
  rw [← toNat_decodeRgb_r, ← toNat_decodeRgb_g, ← toNat_decodeRgb_b, ← encodeU8_ofNat (by omega), ← luma_eq]
  rfl

/-- Settles O17: three equal bytes are the sample times `1 + 2^8 + 2^16`. -/
theorem torgbCompletes : Obligations.TorgbCompletes := by
  refine fun s r d a hf hi => completesWith_of_frame hf hi rfl fun x y _ _ => BitVec.eq_of_toNat_eq ?_
  have hv := bits_byte_lt (r.pixel s.build 0 x y)
  have hsrc : (r.srcU8 s.build 0 x y).toNat = bits (r.pixel s.build 0 x y) 7 0 := toNat_decodeU8 _
  dsimp only
  rw [toNat_encodeRgb, BitVec.toNat_ofNat, broadcast, hsrc]
  omega

/-- A word of the frame, by the index of its pixel. -/
theorem exists_pixel_of_index {j : Nat} (hj : j < b.size) :
    ∃ x y, x < b.width ∧ y < b.height ∧ x + y * b.width = j := by
  have hw : 0 < b.width := Nat.pos_of_ne_zero fun h => by simp [Build.size, h] at hj
  exact ⟨j % b.width, j / b.width, Nat.mod_lt _ hw, Nat.div_lt_of_lt_mul hj, Nat.mod_add_div' j b.width⟩

/-- Settles O18: the frame of the snapshot's own words, and its own tag. -/
theorem copyCompletes : Obligations.CopyCompletes := by
  intro s r d a f hf hi hsrc hlen
  have htag : r.srcTag 0 = f.tag := by simp [InFlight.srcTag, hsrc]
  have hwords : r.srcWords 0 = f.words := by simp [InFlight.srcWords, hsrc]
  have hdone : CompletesWith (.copy d a) s d f.tag fun x y => r.pixel s.build 0 x y :=
    completesWith_of_frame hf hi (by rw [← htag]; rfl) fun x y _ _ => rfl
  refine ⟨hdone, ?_⟩
  obtain ⟨u, hexec, -, hpixel, -⟩ := hdone
  refine ⟨u, hexec, fun j hj => ?_⟩
  obtain ⟨x, y, hx, hy, rfl⟩ := exists_pixel_of_index hj
  have hj' : x + y * s.build.width < f.words.length := by omega
  have hword : r.pixel s.build 0 x y = f.words[x + y * s.build.width] := by
    rw [← List.getD_eq_getElem _ 0 hj', ← hwords]
    rfl
  rw [List.getElem?_eq_getElem hj', ← hword]
  exact hpixel x y hx hy

/-! ### THRESHOLD and BORDER_ZERO (R183, R185) -/

/-- Settles O23: the comparison is with the sample as an unsigned number. -/
theorem thresholdCompletes : Obligations.ThresholdCompletes := by
  refine fun s r d a hf hi => completesWith_of_frame hf hi rfl fun x y _ _ => ?_
  have hsrc : (r.srcU8 s.build 0 x y).toNat = bits (r.pixel s.build 0 x y) 7 0 := toNat_decodeU8 _
  rw [thresholdOut, hsrc, apply_ite encodeU8]
  rfl

theorem inMargin_iff {m : Nat} :
    inMargin b m x y = true ↔ x < m ∨ b.width ≤ x + m ∨ y < m ∨ b.height ≤ y + m := by
  simp only [inMargin, Bool.or_eq_true, decide_eq_true_eq, or_assoc]

/-- Settles O24: the margin as four inequalities between natural numbers. -/
theorem borderZeroCompletes : Obligations.BorderZeroCompletes := by
  refine fun s r d a hf hi => completesWith_of_frame hf hi rfl fun x y _ _ => ?_
  have hsrc : (r.srcU8 s.build 0 x y).toNat = bits (r.pixel s.build 0 x y) 7 0 := toNat_decodeU8 _
  simp only [borderZeroOut, inMargin_iff, apply_ite encodeU8, encodeU8_eq_ofNat (r.srcU8 s.build 0 x y), hsrc]
  rfl

/-! ### PRODUCT and RESPONSE (R201, R204) -/

/-- Settles O25: the truncated product, zero-extended, is the product modulo 65536. -/
theorem productCompletes : Obligations.ProductCompletes := by
  refine fun s r d a c hf hi => completesWith_of_frame hf hi rfl fun x y _ _ => ?_
  rw [← decodeS16_eq_setWidth, ← decodeS16_eq_setWidth]
  exact encodeU16_ofInt _

/-- The score is the floor of `det - k·trace²` over the rationals, with `k = 2621/65536`. -/
theorem responseOut_eq_floor (p q m : BitVec 16) :
    responseOut p q m = BitVec.ofInt 32
      ((p.toNat : Rat) * q.toNat - m.toNat * m.toNat - 2621 / 65536 * (p.toNat + q.toNat) ^ 2).floor := by
  rw [responseOut, asr_eq_floor]
  congr 2
  push_cast [harrisKShift, harrisKNum]
  ring

/-- Settles O26: the samples are the low 16 bits of the source words. -/
theorem responseCompletes : Obligations.ResponseCompletes := by
  refine fun s r d a c e hf hi => completesWith_of_frame hf hi rfl fun x y _ _ => ?_
  dsimp only
  rw [← toNat_decodeU16, ← toNat_decodeU16, ← toNat_decodeU16]
  exact responseOut_eq_floor _ _ _

/-! ### DECIDE (R213) -/

theorem wrap_neg_toInt (v : Word) : wrap 32 (-v.toInt) = (-v).toInt := by
  rw [BitVec.toInt_neg, Int.bmod, wrap, trunc]
  rfl

/-- The word of a classified score: the class in bits 17:16, the value the middle bits of the score. -/
theorem encodeWPix_classifyOut (v : Word) (mx thresUp : Int) :
    encodeWPix (classifyOut v.toInt mx thresUp) =
      if v.toInt < 42 then BitVec.ofInt 32 (2 ^ 16 + (-v).toInt / 2 ^ 8 % 2 ^ 16)
      else if mx - thresUp < v.toInt then BitVec.ofInt 32 (2 ^ 17 + v.toInt / 2 ^ 8 % 2 ^ 16)
      else 0 := by
  have hlow : (harrisLow : Int) = 42 := rfl
  rw [classifyOut, wrap_neg_toInt, hlow, apply_ite encodeWPix, apply_ite encodeWPix, encodeWPix_ofInt, encodeWPix_ofInt]
  rfl

/-- Settles O28: the source word is the score, and the record holds the maximum and the margin. -/
theorem decideCompletes : Obligations.DecideCompletes := fun s r _ _ hf hi =>
  completesWith_of_frame hf hi rfl fun x y _ _ => encodeWPix_classifyOut (r.pixel s.build 0 x y) r.maxInt r.argInt

theorem kind_classifyOut_eq_corner_iff (score mx thresUp : Int) :
    (classifyOut score mx thresUp).kind = .corner ↔ 42 ≤ score ∧ mx - thresUp < score := by
  unfold classifyOut harrisLow
  split_ifs <;> simp only [false_iff, true_iff] <;> omega

/-- Settles O35: raising `thresUp` lowers the bound `mx - thresUp`. -/
theorem raisingThresUpKeepsCorners : Obligations.RaisingThresUpKeepsCorners := by
  refine fun score mx t t' => ⟨kind_classifyOut_eq_corner_iff score mx t, fun hle h => ?_⟩
  obtain ⟨hlow, hhigh⟩ := (kind_classifyOut_eq_corner_iff score mx t).mp h
  exact (kind_classifyOut_eq_corner_iff score mx t').mpr ⟨hlow, by omega⟩

end Sys2Proof.Machine
end

section
/-!
PROOFS. The family of completion, second part: the commands that compute one pixel from a window of pixels (files 40,
42, 43 and 44).
-/

namespace Sys2Proof.Machine

variable {α β : Type} {s : State} {b : Build} {r : InFlight} {k x y i j : Nat}

/-! ### Windows (R123) -/

/-- A function of the elements can be applied before or after the window is taken. -/
theorem window_map (f : α → β) (zero : α) (src : Nat → Nat → α) :
    f (window k zero src x y i j) = window k (f zero) (fun x y => f (src x y)) x y i j :=
  apply_ite f _ _ _

theorem window_lt {n : Nat} {src : Nat → Nat → Nat} (h : ∀ x y, src x y < n) (hn : 0 < n) :
    window k 0 src x y i j < n := by
  unfold window
  split
  · exact h _ _
  · exact hn

theorem window_natCast (src : Nat → Nat → Nat) :
    ((window k 0 src x y i j : Nat) : Int) = window k 0 (fun x y => (src x y : Int)) x y i j :=
  window_map (fun n : Nat => (n : Int)) 0 src

/-- The window over a U8 source, as numbers. -/
theorem windowU8_srcU8 :
    windowU8 k (r.srcU8 b 0) x y =
      fun i j => ((window k 0 (fun x y => bits (r.pixel b 0 x y) 7 0) x y i j : Nat) : Int) := by
  funext i j
  rw [windowU8, window_map BitVec.toNat]
  congr 2
  funext x y
  exact toNat_decodeU8 _

/-- The same as integers. -/
theorem windowU8_srcU8_int :
    windowU8 k (r.srcU8 b 0) x y = window k 0 (fun x y => (bits (r.pixel b 0 x y) 7 0 : Int)) x y := by
  funext i j
  rw [windowU8_srcU8]
  exact window_natCast _

/-- An element of a window over a U8 source is a byte. -/
theorem window_bits_lt (r : InFlight) (b : Build) (k x y i j : Nat) :
    window k 0 (fun x y => bits (r.pixel b 0 x y) 7 0) x y i j < 256 :=
  window_lt (fun _ _ => bits_byte_lt _) (by decide)

/-! ### CONV3 and CONV5 (R120, R126, R127) -/

theorem sumTo_eq_sum (n : Nat) (f : Nat → Int) : sumTo n f = ∑ i ∈ Finset.range n, f i := by
  induction n with
  | zero => rfl
  | succ n ih => rw [sumTo, ih, Finset.sum_range_succ]

theorem convolve_eq_sum (kernel w : Nat → Nat → Int) :
    convolve k kernel w = ∑ i ∈ Finset.range k, ∑ j ∈ Finset.range k, kernel i j * w i j := by
  simp only [convolve, sumTo_eq_sum]

theorem InFlight.kernel_eq_getD (r : InFlight) (k i j : Nat) :
    r.kernel k i j = (r.kcoef[k * i + j]?.getD 0).toInt := by
  unfold InFlight.kernel
  cases r.kcoef[k * i + j]? <;> rfl

theorem convOut_eq (k shift : Nat) :
    convOut k (r.kernel k) shift (r.srcU8 b 0) x y =
      BitVec.ofInt 32 ((∑ i ∈ Finset.range k, ∑ j ∈ Finset.range k, (r.kcoef[k * i + j]?.getD 0).toInt *
        window k 0 (fun x y => (bits (r.pixel b 0 x y) 7 0 : Int)) x y i j) / 2 ^ shift) := by
  simp only [convOut, asr, convolve_eq_sum, windowU8_srcU8_int, InFlight.kernel_eq_getD]

/-- Settles O15: one sum for both kernel sizes. -/
theorem convolutionsComplete : Obligations.ConvolutionsComplete := fun _ _ _ _ hf =>
  ⟨fun hi => completesWith_of_frame hf hi rfl fun _ _ _ _ => convOut_eq 3 _,
    fun hi => completesWith_of_frame hf hi rfl fun _ _ _ _ => convOut_eq 5 _⟩

/-! ### GAUSS3 and GAUSS5 (R150, R151) -/

theorem convolve_g3 (w : Nat → Nat → Nat) :
    convolve 3 g3 (fun i j => w i j) =
      ((w 0 0 + 2 * w 0 1 + w 0 2 + 2 * w 1 0 + 4 * w 1 1 + 2 * w 1 2 + w 2 0 + 2 * w 2 1 + w 2 2 : Nat) : Int) := by
  simp only [convolve, sumTo, g3, kernelOf, List.getD_cons_zero, List.getD_cons_succ]
  push_cast
  ring

/-- The weights of one row of the 5×5 kernel (R151). -/
def binomialRow (w : Nat → Nat → Nat) (i : Nat) : Nat := w i 0 + 4 * w i 1 + 6 * w i 2 + 4 * w i 3 + w i 4

theorem convolve_g5 (w : Nat → Nat → Nat) :
    convolve 5 g5 (fun i j => w i j) =
      ((binomialRow w 0 + 4 * binomialRow w 1 + 6 * binomialRow w 2 + 4 * binomialRow w 3 + binomialRow w 4 : Nat) :
        Int) := by
  simp only [convolve, sumTo, g5, binomial, binomialRow, List.getD_cons_zero, List.getD_cons_succ]
  push_cast
  ring

theorem binomialRow_le {w : Nat → Nat → Nat} (h : ∀ i j, w i j < 256) (i : Nat) : binomialRow w i ≤ 4080 := by
  have := h i 0; have := h i 1; have := h i 2; have := h i 3; have := h i 4
  unfold binomialRow
  omega

/-- Settles O19: the weights sum to 16 and to 256, so the quotient fits a byte. -/
theorem gaussiansComplete : Obligations.GaussiansComplete := by
  intro s r d a hf src
  refine ⟨fun hi => completesWith_of_frame hf hi rfl fun x y _ _ => ?_,
    fun hi => completesWith_of_frame hf hi rfl fun x y _ _ => ?_⟩
  · have hw := window_bits_lt r s.build 3 x y
    rw [gauss3Out, windowU8_srcU8, convolve_g3, asr_natCast, BitVec.ofInt_natCast]
    refine encodeU8_ofNat (Nat.div_lt_of_lt_mul ?_)
    have := hw 0 0; have := hw 0 1; have := hw 0 2; have := hw 1 0; have := hw 1 1; have := hw 1 2
    have := hw 2 0; have := hw 2 1; have := hw 2 2
    unfold gauss3Shift
    omega
  · have hrow := binomialRow_le (window_bits_lt r s.build 5 x y)
    rw [gauss5Out, windowU8_srcU8, convolve_g5, asr_natCast, BitVec.ofInt_natCast]
    refine encodeU8_ofNat (Nat.div_lt_of_lt_mul ?_)
    have := hrow 0; have := hrow 1; have := hrow 2; have := hrow 3; have := hrow 4
    unfold gauss5Shift
    omega

/-! ### SOBELX, SOBELY and SOBEL (R160 to R165) -/

theorem gradX_eq (w : Nat → Nat → Int) :
    gradX w = (w 0 0 + 2 * w 1 0 + w 2 0) - (w 0 2 + 2 * w 1 2 + w 2 2) := by
  simp only [gradX, convolve, sumTo, kx, kernelOf, List.getD_cons_zero, List.getD_cons_succ]
  ring

theorem gradY_eq (w : Nat → Nat → Int) :
    gradY w = (w 0 0 + 2 * w 0 1 + w 0 2) - (w 2 0 + 2 * w 2 1 + w 2 2) := by
  simp only [gradY, convolve, sumTo, ky, kernelOf, List.getD_cons_zero, List.getD_cons_succ]
  ring

/-- The gradients of a window of bytes fit 11 bits. -/
theorem grad_bounds {w : Nat → Nat → Int} (h : ∀ i j, 0 ≤ w i j ∧ w i j < 256) :
    (-1020 ≤ gradX w ∧ gradX w ≤ 1020) ∧ (-1020 ≤ gradY w ∧ gradY w ≤ 1020) := by
  have := h 0 0; have := h 0 1; have := h 0 2; have := h 1 0; have := h 1 2; have := h 2 0; have := h 2 1
  have := h 2 2
  rw [gradX_eq, gradY_eq]
  omega

theorem windowU8_bounds (src : Nat → Nat → Byte) (k x y i j : Nat) :
    0 ≤ windowU8 k src x y i j ∧ windowU8 k src x y i j < 256 := by
  have := (window k 0 src x y i j).isLt
  unfold windowU8
  omega

theorem encodeS16_sobelxOut (src : Nat → Nat → Byte) (x y : Nat) :
    encodeS16 (sobelxOut src x y) = BitVec.ofInt 32 (gradX (windowU8 3 src x y)) := by
  have hbound := (grad_bounds (windowU8_bounds src 3 x y)).1
  exact encodeS16_ofInt (by omega) (by omega)

theorem encodeS16_sobelyOut (src : Nat → Nat → Byte) (x y : Nat) :
    encodeS16 (sobelyOut src x y) = BitVec.ofInt 32 (gradY (windowU8 3 src x y)) := by
  have hbound := (grad_bounds (windowU8_bounds src 3 x y)).2
  exact encodeS16_ofInt (by omega) (by omega)

/-- Settles O20: the kernels written out, and gradients that fit 16 bits. -/
theorem rawGradientsComplete : Obligations.RawGradientsComplete := by
  intro s r d a hf src
  refine ⟨fun hi => completesWith_of_frame hf hi rfl fun x y _ _ => ?_,
    fun hi => completesWith_of_frame hf hi rfl fun x y _ _ => ?_⟩
  · rw [encodeS16_sobelxOut, windowU8_srcU8_int, gradX_eq]
  · rw [encodeS16_sobelyOut, windowU8_srcU8_int, gradY_eq]

theorem magnitude_lt (gx gy : Int) : magnitude gx gy < 256 :=
  Nat.lt_succ_of_le (Nat.min_le_right _ _)

theorem toNat_mag_sobelOut (b : Build) (src : Nat → Nat → Byte) (x y : Nat) :
    (sobelOut b src x y).mag.toNat =
      if inband b 3 x y then magnitude (gradX (windowU8 3 src x y)) (gradY (windowU8 3 src x y)) else 0 := by
  refine Nat.mod_eq_of_lt ?_
  split
  · exact magnitude_lt _ _
  · decide

/-- The fields of the word of a directed pixel (R102). -/
theorem bits_encodeDir (e : DirPixel) :
    bits (encodeDir e) 7 0 = e.mag.toNat ∧ bits (encodeDir e) 9 8 = e.dir.code.toNat ∧
      bits (encodeDir e) 31 10 = 0 := by
  have := e.mag.isLt
  have := e.dir.code.isLt
  unfold bits
  rw [toNat_encodeDir]
  omega

/-- Settles O21: the two fields of the word, from the gradients of one window. -/
theorem sobelCompletes : Obligations.SobelCompletes := by
  intro s r d a hf hi src gx gy
  refine ⟨_, completesWith_of_frame hf hi rfl fun _ _ _ _ => rfl, fun x y => ?_⟩
  obtain ⟨hmag, hdir, hrest⟩ := bits_encodeDir (sobelOut s.build (r.srcU8 s.build 0) x y)
  have hgx : gradX (windowU8 3 (r.srcU8 s.build 0) x y) = gx x y := by rw [windowU8_srcU8_int, gradX_eq]
  have hgy : gradY (windowU8 3 (r.srcU8 s.build 0) x y) = gy x y := by rw [windowU8_srcU8_int, gradY_eq]
  rw [toNat_mag_sobelOut, hgx, hgy] at hmag
  refine ⟨?_, hrest, fun hin => hmag.trans (if_pos (inband_iff.mpr hin)),
    fun hout => hmag.trans (if_neg (mt inband_iff.mp hout))⟩
  rw [← hgx, ← hgy]
  exact hdir

/-! ### EDGE_NMS (R180, R181) -/

theorem Direction.code_ofCode (c : BitVec 2) : (Direction.ofCode c).code = c := by
  revert c
  decide

theorem PixelKind.code_ofCode (c : BitVec 2) : (PixelKind.ofCode c).code = c := by
  revert c
  decide

theorem toNat_code_decodeDir (w : Word) : (decodeDir w).dir.code.toNat = bits w 9 8 := by
  rw [decodeDir, Direction.code_ofCode]
  exact toNat_extractLsb' w 8 1

theorem toNat_mag_decodeDir (w : Word) : (decodeDir w).mag.toNat = bits w 7 0 := toNat_extractLsb' w 0 7

/-- No column or row of a 3×3 window at `x, y ≥ 2` lies outside the frame. -/
theorem window_three_inside {zero : α} {src : Nat → Nat → α} (hx : 2 ≤ x) (hy : 2 ≤ y) :
    window 3 zero src x y i j = src (x - 2 + j) (y - 2 + i) := by
  rw [window, if_pos (by omega)]
  congr 1 <;> omega

theorem toNat_suppressEdge (w : Nat → Nat → DirPixel) :
    (suppressEdge w).toNat =
      let n := edgeNeighbours w (w 1 1).dir
      if (w 1 1).mag.toNat < n.1.mag.toNat ∨ (w 1 1).mag.toNat < n.2.mag.toNat then 0 else (w 1 1).mag.toNat := by
  simp only [suppressEdge, apply_ite BitVec.toNat, BitVec.lt_def]
  rfl

/-- The neighbours by the code of the direction (R181). -/
theorem edgeNeighbours_eq (w : Nat → Nat → DirPixel) (c : Direction) :
    edgeNeighbours w c =
      if c.code.toNat = 0 then (w 1 0, w 1 2) else if c.code.toNat = 1 then (w 0 0, w 2 2)
      else if c.code.toNat = 2 then (w 0 1, w 2 1) else (w 2 0, w 0 2) := by
  cases c <;> rfl

theorem edgeNmsOut_of_inBand {src : Nat → Nat → DirPixel} (h : InBand b 3 x y) :
    edgeNmsOut b src x y = suppressEdge (window 3 zeroDir src x y) :=
  if_pos (inband_iff.mpr h)

theorem edgeNmsOut_of_not_inBand {src : Nat → Nat → DirPixel} (h : ¬ InBand b 3 x y) : edgeNmsOut b src x y = 0 :=
  if_neg (mt inband_iff.mp h)

/-- Settles O22: inside the band every neighbour is a pixel of the frame. -/
theorem edgeNmsCompletes : Obligations.EdgeNmsCompletes := by
  intro s r d a hf hi mag dir
  refine ⟨_, completesWith_of_frame hf hi rfl fun _ _ _ _ => rfl, fun x y => ⟨fun hout => ?_, fun hin => ?_⟩⟩
  · rw [edgeNmsOut_of_not_inBand hout]
    rfl
  · have hx : 2 ≤ x := by obtain ⟨h, -⟩ := hin; omega
    have hy : 2 ≤ y := by obtain ⟨-, -, h, -⟩ := hin; omega
    have hpixel (x y : Nat) : r.srcDir s.build 0 x y = decodeDir (r.pixel s.build 0 x y) := rfl
    have hcentre {z : Nat} (hz : 2 ≤ z) : z - 2 + 1 = z - 1 := by omega
    rw [toNat_encodeU8, edgeNmsOut_of_inBand hin, toNat_suppressEdge, edgeNeighbours_eq]
    simp only [window_three_inside hx hy, hpixel, apply_ite Prod.fst, apply_ite Prod.snd, apply_ite DirPixel.mag,
      apply_ite BitVec.toNat, toNat_mag_decodeDir, toNat_code_decodeDir, Nat.add_zero, hcentre hx, hcentre hy,
      Nat.sub_add_cancel hx, Nat.sub_add_cancel hy]
    rfl

end Sys2Proof.Machine
end

section
/-!
PROOFS. The family of completion, third part: CORNER_NMS and GLOBAL_MAX (45_corner.md), and the composite commands as
functions of the pixel (46_pipelines.md).
-/

namespace Sys2Proof.Machine

variable {α β : Type} {s : State} {b : Build} {r : InFlight} {d a : PlaneNo} {k x y i j : Nat} {zero : α}
  {src src' : Nat → Nat → α}

/-! ### CORNER_NMS (R218, R219) -/

theorem toNat_value_decodeWPix (w : Word) : (decodeWPix w).value.toNat = bits w 15 0 := toNat_extractLsb' w 0 15

theorem toNat_code_decodeWPix (w : Word) : (decodeWPix w).kind.code.toNat = bits w 17 16 := by
  rw [decodeWPix, PixelKind.code_ofCode]
  exact toNat_extractLsb' w 16 1

theorem kind_eq_corner_iff (c : PixelKind) : c = .corner ↔ c.code.toNat = 2 := by cases c <;> decide

theorem kind_decodeWPix_eq_corner_iff (w : Word) : (decodeWPix w).kind = .corner ↔ bits w 17 16 = 2 := by
  rw [kind_eq_corner_iff, toNat_code_decodeWPix]

/-- A centre that is a corner below the largest one is demoted. -/
theorem suppressCorner_of_not_kept {w : Nat → Nat → WPixel}
    (h : ¬ ((w 2 2).kind = .corner → maxCorner w ≤ (w 2 2).value.toNat)) : suppressCorner w = zeroWPix := by
  obtain ⟨hcorner, hmax⟩ := Classical.not_imp.mp h
  rw [suppressCorner, if_pos hcorner, if_neg hmax]

theorem encodeWPix_zeroWPix : encodeWPix zeroWPix = 0 := by decide

/-- The centre of an in-band window survives exactly if it is no corner or no corner of its window exceeds it, in terms
of the source words. -/
theorem cornerNms_kept_iff (h : InBand b 5 x y) :
    ((window 5 zeroWPix (r.srcWPix b 0) x y 2 2).kind = .corner →
      maxCorner (window 5 zeroWPix (r.srcWPix b 0) x y) ≤
        (window 5 zeroWPix (r.srcWPix b 0) x y 2 2).value.toNat) ↔
    (bits (r.pixel b 0 (x - 2) (y - 2)) 17 16 ≠ 2 ∨
      ∀ i j, i < 5 → j < 5 → bits (r.pixel b 0 (x - 4 + j) (y - 4 + i)) 17 16 = 2 →
        bits (r.pixel b 0 (x - 4 + j) (y - 4 + i)) 15 0 ≤ bits (r.pixel b 0 (x - 2) (y - 2)) 15 0) := by
  have hpixel (x y : Nat) : r.srcWPix b 0 x y = decodeWPix (r.pixel b 0 x y) := rfl
  rw [maxCorner_le_iff, window_five_centre h]
  obtain ⟨hx, -, hy, -⟩ := h
  simp only [window_five_inside (show 4 ≤ x by omega) (show 4 ≤ y by omega), hpixel, kind_decodeWPix_eq_corner_iff,
    toNat_value_decodeWPix, imp_iff_not_or (a := bits (r.pixel b 0 (x - 2) (y - 2)) 17 16 = 2)]
  exact or_congr_right ⟨fun h i j hi hj => h i hi j hj, fun h i hi j hj => h i j hi hj⟩

/-- Settles O29: inside the band by the centre and the corners of its window (`cornerNms_kept_iff`). -/
theorem cornerNmsCompletes : Obligations.CornerNmsCompletes := by
  intro s r d a hf hi value kind
  refine ⟨_, completesWith_of_frame hf hi rfl fun _ _ _ _ => rfl, fun x y => ⟨fun hout => ?_, fun hin => ?_⟩⟩
  · rw [cornerNmsOut_of_not_inBand hout, encodeWPix_zeroWPix]
  · rw [cornerNmsOut_of_inBand hin]
    refine ⟨fun hkept => ?_, fun hkept => ?_⟩
    · rw [suppressCorner_of_kept ((cornerNms_kept_iff hin).mpr hkept), window_five_centre hin, toNat_encodeWPix,
        InFlight.srcWPix, toNat_value_decodeWPix, toNat_code_decodeWPix]
      rfl
    · rw [suppressCorner_of_not_kept (mt (cornerNms_kept_iff hin).mp hkept), encodeWPix_zeroWPix]

/-! ### GLOBAL_MAX (R210) -/

theorem mem_frameOf_iff {out : Nat → Nat → α} {v : α} :
    v ∈ frameOf b out ↔ ∃ x y, x < b.width ∧ y < b.height ∧ out x y = v := by
  simp only [frameOf, List.mem_map, List.mem_range]
  constructor
  · rintro ⟨n, hn, rfl⟩
    obtain ⟨x, y, hx, hy, rfl⟩ := exists_pixel_of_index hn
    exact ⟨x, y, hx, hy, by rw [index_mod_width hx, index_div_width hx]⟩
  · rintro ⟨x, y, hx, hy, rfl⟩
    exact ⟨_, index_lt_size hx hy, by rw [index_mod_width hx, index_div_width hx]⟩

/-- The running maximum is the library's maximum of the start and all scores. -/
theorem max?_eq_frameMax (src : Nat → Nat → Word) :
    ((src 0 0).toInt :: (frameOf b src).map BitVec.toInt).max? = some (frameMax b src) := by
  rw [List.max?_cons', List.foldl_map, frameMax]
  simp only [max_def_lt]

theorem isFrameMax_frameMax (hb : b.legal = true) (src : Nat → Nat → Word) :
    IsFrameMax b (fun x y => (src x y).toInt) (frameMax b src) := by
  obtain ⟨hw, hh, -⟩ := (legal_iff b).mp hb
  obtain ⟨hmem, hle⟩ := List.max?_eq_some_iff.mp (max?_eq_frameMax (b := b) src)
  refine ⟨fun x y hx hy => hle _ ?_, ?_⟩
  · exact List.mem_cons_of_mem _ (List.mem_map_of_mem (mem_frameOf_iff.mpr ⟨x, y, hx, hy, rfl⟩))
  · rcases List.mem_cons.mp hmem with hstart | hmem
    · exact ⟨0, 0, by omega, by omega, hstart.symm⟩
    · obtain ⟨v, hv, hmax⟩ := List.mem_map.mp hmem
      obtain ⟨x, y, hx, hy, rfl⟩ := mem_frameOf_iff.mp hv
      exact ⟨x, y, hx, hy, hmax⟩

/-- Settles O27: a legal build has pixels, so the maximum is one of the scores and fits `MAXR`. -/
theorem globalMaxCompletes : Obligations.GlobalMaxCompletes := by
  refine fun s r a hb hf hi => ⟨BitVec.ofInt 32 (frameMax s.build (r.srcS32 s.build 0)), ?_, exec_inflight hf hi⟩
  rw [toInt_ofInt_frameMax]
  exact isFrameMax_frameMax hb _

/-! ### Stages over whole frames (R229) -/

/-- Two frames agree on the pixels up to `(x, y)`. -/
def AgreeTo (x y : Nat) (src src' : Nat → Nat → α) : Prop := ∀ x' ≤ x, ∀ y' ≤ y, src x' y' = src' x' y'

/-- A stage computes a pixel from the pixels up to it: its window lies above and to the left (R123). -/
def Causal (stage : (Nat → Nat → α) → Nat → Nat → β) : Prop :=
  ∀ src src' x y, AgreeTo x y src src' → stage src x y = stage src' x y

/-- A frame read back agrees with the function that built it, up to every pixel of the frame. -/
theorem agreeTo_frameAt {f : Nat → Nat → α} (hx : x < b.width) (hy : y < b.height) :
    AgreeTo x y (frameAt b zero (frameOf b f)) f := fun _ hx' _ hy' =>
  frameAt_frameOf (hx'.trans_lt hx) (hy'.trans_lt hy)

/-- A stage over the frame of another is the composition of the two as functions of the pixel. -/
theorem Causal.frameOf {stage : (Nat → Nat → α) → Nat → Nat → β} (h : Causal stage) (zero : α) (f : Nat → Nat → α) :
    Machine.frameOf b (stage (frameAt b zero (Machine.frameOf b f))) = Machine.frameOf b (stage f) :=
  frameOf_congr fun _ _ hx hy => h _ _ _ _ (agreeTo_frameAt hx hy)

theorem AgreeTo.window (h : AgreeTo x y src src') (hi : i < k) (hj : j < k) :
    window k zero src x y i j = window k zero src' x y i j := by
  unfold Machine.window
  rw [h _ (by omega) _ (by omega)]

theorem AgreeTo.convolve_windowU8 {src src' : Nat → Nat → Byte} (h : AgreeTo x y src src')
    (kernel : Nat → Nat → Int) : convolve k kernel (windowU8 k src x y) = convolve k kernel (windowU8 k src' x y) := by
  simp only [convolve_eq_sum]
  refine Finset.sum_congr rfl fun i hi => Finset.sum_congr rfl fun j hj => ?_
  rw [windowU8, windowU8, h.window (Finset.mem_range.mp hi) (Finset.mem_range.mp hj)]

theorem causal_gauss3Out : Causal gauss3Out := fun _ _ _ _ h => by
  rw [gauss3Out, gauss3Out, h.convolve_windowU8]

theorem causal_sobelxOut : Causal sobelxOut := fun _ _ _ _ h => by
  rw [sobelxOut, sobelxOut, gradX, gradX, h.convolve_windowU8]

theorem causal_sobelyOut : Causal sobelyOut := fun _ _ _ _ h => by
  rw [sobelyOut, sobelyOut, gradY, gradY, h.convolve_windowU8]

theorem causal_sobelOut : Causal (sobelOut b) := fun _ _ _ _ h => by
  simp only [sobelOut, gradX, gradY, h.convolve_windowU8]

theorem suppressEdge_congr {w w' : Nat → Nat → DirPixel} (h : ∀ i < 3, ∀ j < 3, w i j = w' i j) :
    suppressEdge w = suppressEdge w' := by
  have hneighbours (c : Direction) : edgeNeighbours w c = edgeNeighbours w' c := by
    cases c <;> simp [edgeNeighbours, h]
  simp only [suppressEdge, hneighbours, h 1 (by decide) 1 (by decide)]

theorem causal_edgeNmsOut : Causal (edgeNmsOut b) := fun _ _ _ _ h => by
  rw [edgeNmsOut, edgeNmsOut, suppressEdge_congr fun i hi j hj => h.window hi hj]

theorem maxTo_congr {n : Nat} {f g : Nat → Nat} (h : ∀ i < n, f i = g i) : maxTo n f = maxTo n g := by
  induction n with
  | zero => rfl
  | succ n ih => rw [maxTo, maxTo, ih fun i hi => h i (by omega), h n (by omega)]

theorem suppressCorner_congr {w w' : Nat → Nat → WPixel} (h : ∀ i < 5, ∀ j < 5, w i j = w' i j) :
    suppressCorner w = suppressCorner w' := by
  have hmax : maxCorner w = maxCorner w' :=
    maxTo_congr fun i hi => maxTo_congr fun j hj => by rw [h i hi j hj]
  simp only [suppressCorner, hmax, h 2 (by decide) 2 (by decide)]

theorem causal_cornerNmsOut : Causal (cornerNmsOut b) := fun _ _ _ _ h => by
  rw [cornerNmsOut, cornerNmsOut, suppressCorner_congr fun i hi j hj => h.window hi hj]

/-! ### CANNY (R230) -/

/-- One output pixel of CANNY, its stages composed. -/
def cannyPixel (b : Build) (thr : Int) (m : Nat) (src : Nat → Nat → Rgb) (x y : Nat) : Rgb :=
  broadcast (borderZeroOut b m
    (fun x y => thresholdOut thr (edgeNmsOut b (sobelOut b (gauss3Out fun x y => luma (src x y))) x y)) x y)

/-- The frames between the stages of CANNY are no more than the composition of the stages. -/
theorem cannyFrame_eq (thr : Int) (m : Nat) (src : Nat → Nat → Rgb) :
    cannyFrame b thr m src = frameOf b (cannyPixel b thr m src) := by
  simp only [cannyFrame, causal_gauss3Out.frameOf, causal_sobelOut.frameOf, causal_edgeNmsOut.frameOf]
  refine frameOf_congr fun x y hx hy => ?_
  simp only [frameAt_frameOf hx hy, borderZeroOut, cannyPixel]

theorem resultOf_canny_eq (d a : PlaneNo) (b : Build) (r : InFlight) :
    resultOf (.canny d a) b r = .toPlane d .rgb (frameOf b fun x y =>
      encodeRgb (cannyPixel b r.arg.toInt r.margin.toNat (fun x y => decodeRgb (r.pixel b 0 x y)) x y)) := by
  rw [← map_frameOf, ← cannyFrame_eq]
  rfl

/-- Settles O30: the frame of the composed stages. -/
theorem cannyCompletes : Obligations.CannyCompletes := fun s r d a hf hi =>
  completesWith_of_frame hf hi (resultOf_canny_eq d a s.build r) fun _ _ _ _ => rfl

/-! ### CANNY of a black frame (R232) -/

theorem magnitude_zero : magnitude 0 0 = 0 := by decide

theorem sobelOut_zero : sobelOut b (fun _ _ => 0#8) = fun _ _ => ⟨0, .deg90⟩ := by
  funext x y
  simp [sobelOut, gradX, gradY, magnitude_zero]

/-- No pixel of a frame without magnitudes is an edge. -/
theorem edgeNmsOut_zero : edgeNmsOut b (fun _ _ => ⟨0, .deg90⟩) = fun _ _ => 0 := by
  funext x y
  have hcentre : (window 3 zeroDir (fun _ _ => ⟨0, .deg90⟩) x y 1 1).mag = 0 := by
    unfold window
    split <;> rfl
  simp only [edgeNmsOut, suppressEdge, hcentre, ite_self]

theorem cannyPixel_black (thr : Int) (m : Nat) :
    cannyPixel b thr m (fun _ _ => zeroRgb) x y =
      broadcast (if x < m ∨ b.width ≤ x + m ∨ y < m ∨ b.height ≤ y + m then 0 else if thr ≤ 0 then 255 else 0) := by
  simp only [cannyPixel, luma_zeroRgb, gauss3Out_zero, sobelOut_zero, edgeNmsOut_zero, borderZeroOut, inMargin_iff,
    thresholdOut]
  rfl

/-- Settles O40: the edges of a black frame are 0, which the threshold turns into 0 or 255 alike. -/
theorem cannyOfBlackFrame : Obligations.CannyOfBlackFrame := by
  intro s r d a hf hi hblack
  have hsrc : (fun x y => decodeRgb (r.pixel s.build 0 x y)) = fun _ _ => zeroRgb := srcRgb_black hblack
  have hres := resultOf_canny_eq d a s.build r
  rw [hsrc] at hres
  simp only [cannyPixel_black] at hres
  refine ⟨fun harg => completesWith_of_frame hf hi hres fun x y _ _ => ?_,
    fun harg => completesWith_of_frame hf hi hres fun x y _ _ => ?_⟩
  · rw [if_neg (show ¬ r.arg.toInt ≤ 0 by omega), ite_self]
    decide
  · rw [if_pos harg, apply_ite broadcast, apply_ite encodeRgb]
    rfl

/-! ### HARRIS (R234, R236) -/

/-- The score of one pixel, the stages up to RESPONSE composed. -/
def harrisScore (src : Nat → Nat → Rgb) (x y : Nat) : Word :=
  let blur := gauss3Out fun x y => luma (src x y)
  let gx := sobelxOut blur x y
  let gy := sobelyOut blur x y
  responseOut (productOut gx gx) (productOut gy gy) (productOut gx gy)

theorem harrisScores_eq (src : Nat → Nat → Rgb) : harrisScores b src = frameOf b (harrisScore src) := by
  simp only [harrisScores, causal_gauss3Out.frameOf, causal_sobelxOut.frameOf, causal_sobelyOut.frameOf]
  refine frameOf_congr fun x y hx hy => ?_
  simp only [frameAt_frameOf hx hy, harrisScore]

theorem harrisClasses_eq (thresUp mx : Int) (score : Nat → Nat → Word) :
    harrisClasses b thresUp mx (frameOf b score) =
      frameOf b (cornerNmsOut b fun x y => classifyOut (score x y).toInt mx thresUp) := by
  simp only [harrisClasses, causal_cornerNmsOut.frameOf]
  refine frameOf_congr fun x y hx hy => causal_cornerNmsOut _ _ _ _ fun x' hx' y' hy' => ?_
  rw [agreeTo_frameAt hx hy x' hx' y' hy']

/-- A maximum is that of every score that agrees on the pixels of the frame. -/
theorem IsFrameMax.congr {f g : Nat → Nat → Int} {m : Int} (h : IsFrameMax b f m)
    (hfg : ∀ x y, x < b.width → y < b.height → f x y = g x y) : IsFrameMax b g m := by
  obtain ⟨hle, x, y, hx, hy, hm⟩ := h
  exact ⟨fun x y hx hy => hfg x y hx hy ▸ hle x y hx hy, x, y, hx, hy, (hfg x y hx hy).symm.trans hm⟩

/-- Settles O31: the scores are the frame of the composed stages, their maximum fits `MAXR`, and the classification
against it is again a stage. -/
theorem harrisCompletes : Obligations.HarrisCompletes := by
  intro s r d a hb hf hi b blur gx gy score
  have hscores : harrisScores b (r.srcRgb b 0) = frameOf b score := harrisScores_eq _
  let mx := frameMax b (frameAt b 0 (frameOf b score))
  have hm : (BitVec.ofInt 32 mx).toInt = mx := toInt_ofInt_frameMax _
  have hres : resultOf (.harris d a) b r =
      ⟨some (d, .wpix, frameOf b fun x y => encodeWPix (cornerNmsOut b
        (fun x y => classifyOut (score x y).toInt mx r.arg.toInt) x y)), some (BitVec.ofInt 32 mx)⟩ := by
    rw [← map_frameOf, ← harrisClasses_eq]
    simp only [resultOf, harrisResult, hscores]
    rfl
  refine ⟨BitVec.ofInt 32 mx, ?_, ?_⟩
  · rw [hm]
    exact (isFrameMax_frameMax hb _).congr fun x y hx hy => congrArg BitVec.toInt (frameAt_frameOf hx hy)
  · rw [hm]
    have hdone := completesBoth_of_resultOf hf hi (congrArg Result.plane hres)
    rwa [hres] at hdone

end Sys2Proof.Machine
end
